-- ==== Sys2Proof/Word.lean ====
section
/-! DEFINITION. The words of the CORE: bytes, byte sequences, command words, check masks (00_scope.md
R10 to R15). -/

namespace Sys2Proof

/-- The addressable unit of PKT and DAT (20_memory.md R60). -/
abbrev Byte := BitVec 8

/-- A byte sequence, index 0 first on the wire (00_scope.md R12, R15). -/
abbrev Bytes := List Byte

/-- A command word (30_encoding.md R80). -/
abbrev CmdWord := BitVec 16

/-- A mask of validator findings, one per bit, as VFAIL holds it (45_validators.md R211). -/
abbrev Mask := BitVec 32

end Sys2Proof
end

