-- ==== Sys2Proof/Machine/Bytes.lean ====
section
/-! DEFINITION. Big-endian images and values (00_scope.md R12, 20_memory.md R62). -/

namespace Sys2Proof.Machine

/-- `be_n(v)`: the n-byte big-endian image of `v` (00_scope.md R12). -/
def be : Nat → Nat → Bytes
  | 0, _ => []
  | n + 1, v => BitVec.ofNat 8 (v / 256 ^ n) :: be n v

/-- `be_val`, from a value already read on the left. -/
def beValFrom (v : Nat) : Bytes → Nat
  | [] => v
  | b :: s => beValFrom (v * 256 + b.toNat) s

/-- `be_val(s)`: the value whose big-endian image is `s`; 0 for the empty sequence (00_scope.md R12). -/
def beVal (s : Bytes) : Nat := beValFrom 0 s

end Sys2Proof.Machine
end

