-- ==== Sys2Proof/Machine/Crc16.lean ====
section
/-! DEFINITION. The CRC-16/CCITT function (40_crc.md R100 to R103). -/

namespace Sys2Proof.Machine

/-- The generator polynomial without its x^16 term (00_scope.md R9, 40_crc.md R100). -/
def crcPoly : BitVec 16 := 0x1021

/-- The preset (00_scope.md R9, 40_crc.md R100). -/
def crcPreset : BitVec 16 := 0xFFFF

/-- One of the eight rounds that give a table entry (40_crc.md R101). -/
def crcRound (c : BitVec 16) : BitVec 16 :=
  if c.getLsbD 15 then (c <<< 1) ^^^ crcPoly else c <<< 1

/-- `n` rounds. -/
def crcRounds : Nat → BitVec 16 → BitVec 16
  | 0, c => c
  | n + 1, c => crcRounds n (crcRound c)

/-- `TABLE[i]`: eight rounds on `i << 8` (40_crc.md R101). The table is a constant, not state (R46). -/
def crcTable (i : Byte) : BitVec 16 := crcRounds 8 (i ++ 0#8)

/-- `crc_step(c, b) = ((c << 8) & 0xFFFF) ^ TABLE[(c >> 8) ^ b]` (40_crc.md R102). -/
def crcStep (c : BitVec 16) (b : Byte) : BitVec 16 :=
  (c <<< 8) ^^^ crcTable (c.extractLsb' 8 8 ^^^ b)

/-- One shift of the table-free form, with message bit `k` of `b` (40_crc.md R103). -/
def crcShift (b : Byte) (k : Nat) (c : BitVec 16) : BitVec 16 :=
  if c.getLsbD 15 ^^ b.getLsbD k then (c <<< 1) ^^^ crcPoly else c <<< 1

/-- The shifts for the message bits k-1 down to 0. -/
def crcShifts (b : Byte) : Nat → BitVec 16 → BitVec 16
  | 0, c => c
  | k + 1, c => crcShifts b k (crcShift b k c)

/-- The table-free form of `crc_step` (40_crc.md R103): an independent definition, which the operations
do not use. -/
def crcStepSerial (c : BitVec 16) (b : Byte) : BitVec 16 := crcShifts b 8 c

/-- `crc_from(c, s)` (40_crc.md R102). -/
def crcFrom (c : BitVec 16) : Bytes → BitVec 16
  | [] => c
  | b :: s => crcFrom (crcStep c b) s

/-- `crc16(s)` (40_crc.md R102). -/
def crc16 (s : Bytes) : BitVec 16 := crcFrom crcPreset s

/-- `be_2` of a CRC: the two bytes of a PEC trailer, high byte first (40_crc.md R108, 42_space_packet.md
R153). -/
def pecBytes (c : BitVec 16) : Bytes := be 2 c.toNat

end Sys2Proof.Machine
end

