-- ==== Sys2Proof/Syntax.lean ====
section
/-! DEFINITION. The 26 operations of the CORE, one constructor each (30_encoding.md R86). -/

namespace Sys2Proof

/-- The two byte buffers (10_state.md R45); as operand of CRC.BUF, `b` = 0 is PKT and `b` = 1 is DAT
(30_encoding.md R83). -/
inductive BufSel where
  | pkt
  | dat
  deriving DecidableEq, Repr

/-- An operation with its immediate operand (30_encoding.md R85, R86). All other operands are registers
that the operation names implicitly (10_state.md R21). -/
inductive Instr where
  | sysNop
  | sysClrerr
  | sysReset
  | crcInit
  | crcByte (byte : Byte)
  | crcBuf (b : BufSel)
  | crcAppend
  | crcCheck
  | cucVal
  | cucPenc
  | cucPdec
  | cucEnc
  | cucDec
  | cucFromdt
  | cucTofix
  | spVal
  | spPack
  | spParse
  | tcVal
  | tcPack
  | tcParse
  /-- The four rows of TC.ACK: `m` is the flag mask (30_encoding.md R84). -/
  | tcAck (m : BitVec 4)
  | tcReqid
  | tmVal
  | tmPack
  | tmParse
  deriving DecidableEq, Repr

end Sys2Proof
end

