-- ==== Sys2Proof/Config.lean ====
section
/-! DEFINITION. What an implementation of the CORE fixes (00_scope.md R9), and the free values. -/

namespace Sys2Proof

/-- The named parameters of 00_scope.md R9 that a model takes as an argument. They are data of the
state that no step changes (log entry 2), so that every claim can be about every value of them. -/
structure Params where
  /-- `PKT_CAP`: capacity of the packet buffer, in bytes. -/
  pktCap : Nat
  /-- `DAT_CAP`: capacity of the data buffer, in bytes. -/
  datCap : Nat
  /-- `DT_DEN`: sub-second units per second. -/
  dtDen : Nat
  deriving DecidableEq, Repr

/-- The defaults of 00_scope.md R9. -/
def Params.defaults : Params where
  pktCap := 65542
  datCap := 65536
  dtDen := 1000000

/-- The values R9 and R17 allow: `PKT_CAP` at least 7, `DAT_CAP` at least 1, `DT_DEN` not 0. The upper
bounds are DEDUCED (log entry 2): PKT_LEN and DAT_LEN have 32 bits and must be able to hold every
length up to the capacity, and EL_SUB has 32 bits and holds any remainder modulo `DT_DEN`. -/
def Params.ok (p : Params) : Bool :=
  7 ≤ p.pktCap && p.pktCap < 2 ^ 32 && 1 ≤ p.datCap && p.datCap < 2 ^ 32
    && 1 ≤ p.dtDen && p.dtDen ≤ 2 ^ 32

/-- FREE VALUE (log entry 1): the byte at index `i` of buffer `b` after the hardware reset number
`resets`, while nothing has written it. "A model must treat every byte as an arbitrary value (any of 0
to 255, not necessarily the same on two resets) and must not assume zero" (70_reset_and_hazards.md
R272). It has no body, so that no proof can see what it is. -/
opaque Config.freeByte (resets : Nat) (b : BufSel) (i : Nat) : Byte

end Sys2Proof
end

