-- ==== Sys2Proof/WellFormed.lean ====
section
/-! DEFINITION. Which operations have a command word (30_encoding.md R81 to R84). -/

namespace Sys2Proof

/-- A flag mask TC.ACK may carry: exactly one of the four bits (30_encoding.md R84). -/
def oneHot (m : BitVec 4) : Bool :=
  m == 0b0001#4 || m == 0b0010#4 || m == 0b0100#4 || m == 0b1000#4

/-- The operation has a legal command word. The only operand a word can carry illegally, once it is a
term of `Instr`, is TC.ACK's mask: the byte of CRC.BYTE may be any byte (R82), and CRC.BUF's selector
is one of two (R83). -/
def Instr.wellFormed : Instr → Bool
  | .tcAck m => oneHot m
  | .sysNop | .sysClrerr | .sysReset | .crcInit | .crcByte _ | .crcBuf _ | .crcAppend | .crcCheck
  | .cucVal | .cucPenc | .cucPdec | .cucEnc | .cucDec | .cucFromdt | .cucTofix
  | .spVal | .spPack | .spParse | .tcVal | .tcPack | .tcParse | .tcReqid
  | .tmVal | .tmPack | .tmParse => true

end Sys2Proof
end

