-- ==== Sys2Proof/Decode.lean ====
section
/-! DEFINITION. The command-word decoder and encoder (30_encoding.md R80 to R88). -/

namespace Sys2Proof

/-- Why a command word is illegal (30_encoding.md R87). Each of them raises E_ILLEGAL (R88). -/
inductive DecodeError where
  /-- The opcode is in none of the rows of R86. -/
  | unassignedOpcode
  /-- Format N with IMM other than 0 (R81). -/
  | immediateNotZero
  /-- Format B with one of the bits 7:1 set (R83). -/
  | bufferSelectAboveOne
  /-- Format A with a mask that is not one-hot or one of the bits 7:4 set (R84). -/
  | maskNotOneHot
  deriving DecidableEq, Repr

/-- Format N: no operand, IMM must be 0 (30_encoding.md R81). -/
def decodeN (imm : Byte) (i : Instr) : Except DecodeError Instr :=
  if imm = 0 then .ok i else .error .immediateNotZero

/-- Format B: bit 0 selects the buffer, bits 7:1 must be 0 (30_encoding.md R83). -/
def decodeB (imm : Byte) : Except DecodeError Instr :=
  if imm = 0 then .ok (.crcBuf .pkt)
  else if imm = 1 then .ok (.crcBuf .dat)
  else .error .bufferSelectAboveOne

/-- Format A: a one-hot mask in bits 3:0, bits 7:4 must be 0 (30_encoding.md R84). -/
def decodeA (imm : Byte) : Except DecodeError Instr :=
  if imm.extractLsb' 4 4 = 0 ∧ oneHot (imm.extractLsb' 0 4) then .ok (.tcAck (imm.extractLsb' 0 4))
  else .error .maskNotOneHot

/-- The decoder of 30_encoding.md R87: the opcode map of R86, then the format's constraint on IMM. -/
def decode (w : CmdWord) : Except DecodeError Instr :=
  let imm := w.extractLsb' 0 8
  match (w.extractLsb' 8 8).toNat with
  | 0x00 => decodeN imm .sysNop
  | 0x01 => decodeN imm .sysClrerr
  | 0x02 => decodeN imm .sysReset
  | 0x10 => decodeN imm .crcInit
  | 0x11 => .ok (.crcByte imm)
  | 0x12 => decodeB imm
  | 0x13 => decodeN imm .crcAppend
  | 0x14 => decodeN imm .crcCheck
  | 0x20 => decodeN imm .cucVal
  | 0x21 => decodeN imm .cucPenc
  | 0x22 => decodeN imm .cucPdec
  | 0x23 => decodeN imm .cucEnc
  | 0x24 => decodeN imm .cucDec
  | 0x25 => decodeN imm .cucFromdt
  | 0x26 => decodeN imm .cucTofix
  | 0x30 => decodeN imm .spVal
  | 0x31 => decodeN imm .spPack
  | 0x32 => decodeN imm .spParse
  | 0x40 => decodeN imm .tcVal
  | 0x41 => decodeN imm .tcPack
  | 0x42 => decodeN imm .tcParse
  | 0x43 => decodeA imm
  | 0x44 => decodeN imm .tcReqid
  | 0x50 => decodeN imm .tmVal
  | 0x51 => decodeN imm .tmPack
  | 0x52 => decodeN imm .tmParse
  | _ => .error .unassignedOpcode

/-- Bits 15:8 of an operation's command word (30_encoding.md R86). -/
def opcodeOf : Instr → Byte
  | .sysNop => 0x00
  | .sysClrerr => 0x01
  | .sysReset => 0x02
  | .crcInit => 0x10
  | .crcByte _ => 0x11
  | .crcBuf _ => 0x12
  | .crcAppend => 0x13
  | .crcCheck => 0x14
  | .cucVal => 0x20
  | .cucPenc => 0x21
  | .cucPdec => 0x22
  | .cucEnc => 0x23
  | .cucDec => 0x24
  | .cucFromdt => 0x25
  | .cucTofix => 0x26
  | .spVal => 0x30
  | .spPack => 0x31
  | .spParse => 0x32
  | .tcVal => 0x40
  | .tcPack => 0x41
  | .tcParse => 0x42
  | .tcAck _ => 0x43
  | .tcReqid => 0x44
  | .tmVal => 0x50
  | .tmPack => 0x51
  | .tmParse => 0x52

/-- Bits 7:0 of an operation's command word (30_encoding.md R81 to R84). -/
def immediateOf : Instr → Byte
  | .crcByte byte => byte
  | .crcBuf .pkt => 0
  | .crcBuf .dat => 1
  | .tcAck m => 0#4 ++ m
  | .sysNop | .sysClrerr | .sysReset | .crcInit | .crcAppend | .crcCheck
  | .cucVal | .cucPenc | .cucPdec | .cucEnc | .cucDec | .cucFromdt | .cucTofix
  | .spVal | .spPack | .spParse | .tcVal | .tcPack | .tcParse | .tcReqid
  | .tmVal | .tmPack | .tmParse => 0

/-- The command word of an operation (30_encoding.md R80, R86). -/
def encode (i : Instr) : CmdWord := opcodeOf i ++ immediateOf i

/-- What the decoder reads from a command word given as a number. A command word has 16 bits and one
length only (30_encoding.md R80); a number of more bits is no command word. -/
def decodeTableWord (nbits w : Nat) : Option Instr :=
  if nbits ≤ 16 ∧ w < 2 ^ 16 then (decode (BitVec.ofNat 16 w)).toOption else none

end Sys2Proof
end

