-- ==== Sys2Proof/Machine/State.lean ====
section
/-! DEFINITION. The architectural state of the CORE (10_state.md) and how a step can end. -/

namespace Sys2Proof.Machine

/-- The registers of the CORE, complete (10_state.md R47), one field each. -/
structure Regs where
  /-- CMD, register 0 (R24). -/
  cmd : BitVec 16
  /-- STATUS, register 1 (R25). -/
  status : BitVec 16
  /-- ERRLOG, register 2 (R26). -/
  errlog : BitVec 16
  /-- ERRINFO, register 3 (R27). -/
  errinfo : BitVec 32
  /-- RESULT, register 4 (R28). -/
  result : BitVec 32
  /-- VFAIL, register 5 (R29). -/
  vfail : BitVec 32
  /-- HAS_PEC, register 8 (R30). -/
  hasPec : BitVec 1
  /-- TC_SRC_W, register 9 (R31). -/
  tcSrcW : BitVec 32
  /-- TM_CNT_W, register 10 (R32). -/
  tmCntW : BitVec 32
  /-- TM_DST_W, register 11 (R33). -/
  tmDstW : BitVec 32
  /-- VER, register 16 (R34). -/
  ver : BitVec 32
  /-- TYPE, register 17 (R34). -/
  ptype : BitVec 32
  /-- SHF, register 18 (R34). -/
  shf : BitVec 32
  /-- APID, register 19 (R34). -/
  apid : BitVec 32
  /-- SEQF, register 20 (R34). -/
  seqf : BitVec 32
  /-- SEQC, register 21 (R34). -/
  seqc : BitVec 32
  /-- DLEN, register 22 (R35). -/
  dlen : BitVec 16
  /-- PUSV, register 24 (R36). -/
  pusv : BitVec 32
  /-- ACK, register 25 (R36). -/
  ack : BitVec 32
  /-- STAT, register 26 (R36). -/
  stat : BitVec 32
  /-- SVC, register 27 (R36). -/
  svc : BitVec 32
  /-- SUB, register 28 (R36). -/
  sub : BitVec 32
  /-- SRC, register 29 (R37). -/
  src : BitVec 64
  /-- CNT, register 30 (R37). -/
  cnt : BitVec 64
  /-- DST, register 31 (R37). -/
  dst : BitVec 64
  /-- REQID, register 32 (R38). -/
  reqid : BitVec 32
  /-- PEC_RX, register 33 (R38). -/
  pecRx : BitVec 16
  /-- CRC, register 34 (R39). -/
  crc : BitVec 16
  /-- PKT_LEN, register 40 (R40). -/
  pktLen : BitVec 32
  /-- DAT_LEN, register 41 (R40). -/
  datLen : BitVec 32
  /-- CUC_BASIC, register 48 (R41). -/
  cucBasic : BitVec 8
  /-- CUC_FRAC, register 49 (R41). -/
  cucFrac : BitVec 8
  /-- CUC_HASP, register 50 (R41). -/
  cucHasp : BitVec 1
  /-- CUC_TCID, register 51 (R41). -/
  cucTcid : BitVec 32
  /-- CUC_SEC, register 52 (R42). -/
  cucSec : BitVec 64
  /-- CUC_FRC, register 53 (R42). -/
  cucFrc : BitVec 80
  /-- CUC_USED, register 54 (R43). -/
  cucUsed : BitVec 8
  /-- PFIELD, register 55 (R43). -/
  pfield : BitVec 16
  /-- PF_LEN, register 56 (R43). -/
  pfLen : BitVec 2
  /-- FIX, register 57 (R43). -/
  fix : BitVec 136
  /-- FIX_FBITS, register 58 (R43). -/
  fixFbits : BitVec 8
  /-- DT_SEC, register 60 (R44). -/
  dtSec : BitVec 64
  /-- DT_SUB, register 61 (R44). -/
  dtSub : BitVec 32
  /-- EP_SEC, register 62 (R44). -/
  epSec : BitVec 64
  /-- EP_SUB, register 63 (R44). -/
  epSub : BitVec 32
  /-- EL_SEC, register 64 (R44). -/
  elSec : BitVec 64
  /-- EL_SUB, register 65 (R44). -/
  elSub : BitVec 32
  deriving DecidableEq, Repr

/-- The "reset" column of 10_state.md R47: "all zero except SEQF = 3, CRC = 0xFFFF, CUC_BASIC = 0xFF
and CUC_FRAC = 0xFF" (R48, R271). -/
def Regs.reset : Regs where
  cmd := 0
  status := 0
  errlog := 0
  errinfo := 0
  result := 0
  vfail := 0
  hasPec := 0
  tcSrcW := 0
  tmCntW := 0
  tmDstW := 0
  ver := 0
  ptype := 0
  shf := 0
  apid := 0
  seqf := 3
  seqc := 0
  dlen := 0
  pusv := 0
  ack := 0
  stat := 0
  svc := 0
  sub := 0
  src := 0
  cnt := 0
  dst := 0
  reqid := 0
  pecRx := 0
  crc := 0xFFFF
  pktLen := 0
  datLen := 0
  cucBasic := 0xFF
  cucFrac := 0xFF
  cucHasp := 0
  cucTcid := 0
  cucSec := 0
  cucFrc := 0
  cucUsed := 0
  pfield := 0
  pfLen := 0
  fix := 0
  fixFbits := 0
  dtSec := 0
  dtSub := 0
  epSec := 0
  epSub := 0
  elSec := 0
  elSub := 0

/-- The bytes of a buffer that something has written, by index. An index that is not listed has no
value here; what a read of it gives is `State.byteAt` (Ops.lean). -/
abbrev Memory := List Host.Cell

/-- The one canonical form of a buffer's contents: indices strictly rising. An unlisted index has no
value, so no entry can equal what an unlisted index holds, and equal contents are equal lists. -/
abbrev Memory.wf (m : Memory) : Prop := m.Pairwise (fun a b => a.1 < b.1)

/-- Every listed index is below the capacity (10_state.md R45). -/
abbrev Memory.within (cap : Nat) (m : Memory) : Prop := ∀ c ∈ m, c.1 < cap

/-- What the world outside the CORE does to it, one transaction at a time (00_scope.md R8, 20_memory.md
R67): the lines of a host script (30_encoding.md R92), and the hardware reset. -/
inductive HostEvent where
  /-- `RegRead(n)` (10_state.md R23). -/
  | regRead (n : Nat)
  /-- `RegWrite(n, v)` (R23); with n = 0 it writes a command word to CMD (R24). -/
  | regWrite (n v : Nat)
  /-- `BufRead(buf, i)` (R45). -/
  | bufRead (b : BufSel) (i : Nat)
  /-- `BufWrite(buf, i, b)` (R45). -/
  | bufWrite (b : BufSel) (i : Nat) (v : Byte)
  /-- A hardware reset, "an event outside the host transactions" (70_reset_and_hazards.md R270). -/
  | hardReset
  deriving DecidableEq, Repr

/-- The state of the CORE: the registers and the two buffers (10_state.md R20), the parameters
(00_scope.md R9), and the model's own view of the world outside. -/
structure State where
  /-- The registers (R47). -/
  regs : Regs
  /-- The packet buffer PKT (R45). -/
  pkt : Memory
  /-- The data buffer DAT (R45). -/
  dat : Memory
  /-- The parameters of R9; no step changes them (log entry 2). -/
  params : Params
  /-- The MODEL's own: the host transactions still to take place, in their order (log entry 3). -/
  pending : List HostEvent
  /-- The MODEL's own: the value the last host read returned (log entry 3). -/
  reply : Option Nat
  /-- The MODEL's own: the number of hardware resets since State.reset (log entry 1). -/
  resets : Nat
  deriving DecidableEq, Repr

/-- The CORE right after a hardware reset (70_reset_and_hazards.md R271, R272): every register at its
reset value, no byte of a buffer known, idle with no transaction waiting (R270). -/
def State.reset : State where
  regs := Regs.reset
  pkt := []
  dat := []
  params := Params.defaults
  pending := []
  reply := none
  resets := 0

/-- What stops the machine. No operation of the CORE does (60_exceptions.md R240): its errors are next
states. -/
inductive Fault where
  /-- Raised by the host port alone, when the host writes register `n` a value that needs more bits
  than the register has: 10_state.md R23 says that it "supplies a value `v` with `0 <= v < 2^w`" and
  gives any other write no meaning. SAFE: the machine stops where the spec says nothing (log entry 4). -/
  | valueTooWide (n : Nat)
  deriving DecidableEq, Repr

/-- What has no meaning in the model. -/
inductive Refusal where
  /-- Raised by `exec` alone, for an instruction that has no meaning yet, by its mnemonic. SAFE. No
  instruction of this model is refused. -/
  | notModelled (mnemonic : String)
  deriving DecidableEq, Repr

end Sys2Proof.Machine
end

