-- ==== Sys2Proof/Machine/Registers.lean ====
section
/-! DEFINITION. The register space: names, numbers, widths, access kinds, and the one way to read and to
write a register by its name (10_state.md R22, R23, R47). -/

namespace Sys2Proof.Machine

/-- The names of the registers (10_state.md R47). -/
inductive Reg where
  | cmd
  | status
  | errlog
  | errinfo
  | result
  | vfail
  | hasPec
  | tcSrcW
  | tmCntW
  | tmDstW
  | ver
  | ptype
  | shf
  | apid
  | seqf
  | seqc
  | dlen
  | pusv
  | ack
  | stat
  | svc
  | sub
  | src
  | cnt
  | dst
  | reqid
  | pecRx
  | crc
  | pktLen
  | datLen
  | cucBasic
  | cucFrac
  | cucHasp
  | cucTcid
  | cucSec
  | cucFrc
  | cucUsed
  | pfield
  | pfLen
  | fix
  | fixFbits
  | dtSec
  | dtSub
  | epSec
  | epSub
  | elSec
  | elSub
  deriving DecidableEq, Repr

/-- What a host write does (10_state.md R22). -/
inductive Access where
  /-- `RW`: an operand register, the host write takes effect. -/
  | readWrite
  /-- `RO`: a result register, the host write is ignored. -/
  | readOnly
  /-- `W*`: the command register, the host write starts an operation. -/
  | command
  deriving DecidableEq, Repr

/-- The "no." column of R47. -/
def Reg.number : Reg → Nat
  | .cmd => 0
  | .status => 1
  | .errlog => 2
  | .errinfo => 3
  | .result => 4
  | .vfail => 5
  | .hasPec => 8
  | .tcSrcW => 9
  | .tmCntW => 10
  | .tmDstW => 11
  | .ver => 16
  | .ptype => 17
  | .shf => 18
  | .apid => 19
  | .seqf => 20
  | .seqc => 21
  | .dlen => 22
  | .pusv => 24
  | .ack => 25
  | .stat => 26
  | .svc => 27
  | .sub => 28
  | .src => 29
  | .cnt => 30
  | .dst => 31
  | .reqid => 32
  | .pecRx => 33
  | .crc => 34
  | .pktLen => 40
  | .datLen => 41
  | .cucBasic => 48
  | .cucFrac => 49
  | .cucHasp => 50
  | .cucTcid => 51
  | .cucSec => 52
  | .cucFrc => 53
  | .cucUsed => 54
  | .pfield => 55
  | .pfLen => 56
  | .fix => 57
  | .fixFbits => 58
  | .dtSec => 60
  | .dtSub => 61
  | .epSec => 62
  | .epSub => 63
  | .elSec => 64
  | .elSub => 65

/-- The register of a number; "numbers not listed do not exist" (R47). -/
def Reg.ofNumber : Nat → Option Reg
  | 0 => some .cmd
  | 1 => some .status
  | 2 => some .errlog
  | 3 => some .errinfo
  | 4 => some .result
  | 5 => some .vfail
  | 8 => some .hasPec
  | 9 => some .tcSrcW
  | 10 => some .tmCntW
  | 11 => some .tmDstW
  | 16 => some .ver
  | 17 => some .ptype
  | 18 => some .shf
  | 19 => some .apid
  | 20 => some .seqf
  | 21 => some .seqc
  | 22 => some .dlen
  | 24 => some .pusv
  | 25 => some .ack
  | 26 => some .stat
  | 27 => some .svc
  | 28 => some .sub
  | 29 => some .src
  | 30 => some .cnt
  | 31 => some .dst
  | 32 => some .reqid
  | 33 => some .pecRx
  | 34 => some .crc
  | 40 => some .pktLen
  | 41 => some .datLen
  | 48 => some .cucBasic
  | 49 => some .cucFrac
  | 50 => some .cucHasp
  | 51 => some .cucTcid
  | 52 => some .cucSec
  | 53 => some .cucFrc
  | 54 => some .cucUsed
  | 55 => some .pfield
  | 56 => some .pfLen
  | 57 => some .fix
  | 58 => some .fixFbits
  | 60 => some .dtSec
  | 61 => some .dtSub
  | 62 => some .epSec
  | 63 => some .epSub
  | 64 => some .elSec
  | 65 => some .elSub
  | _ => none

/-- The "width" column of R47. -/
def Reg.width : Reg → Nat
  | .cmd => 16
  | .status => 16
  | .errlog => 16
  | .errinfo => 32
  | .result => 32
  | .vfail => 32
  | .hasPec => 1
  | .tcSrcW => 32
  | .tmCntW => 32
  | .tmDstW => 32
  | .ver => 32
  | .ptype => 32
  | .shf => 32
  | .apid => 32
  | .seqf => 32
  | .seqc => 32
  | .dlen => 16
  | .pusv => 32
  | .ack => 32
  | .stat => 32
  | .svc => 32
  | .sub => 32
  | .src => 64
  | .cnt => 64
  | .dst => 64
  | .reqid => 32
  | .pecRx => 16
  | .crc => 16
  | .pktLen => 32
  | .datLen => 32
  | .cucBasic => 8
  | .cucFrac => 8
  | .cucHasp => 1
  | .cucTcid => 32
  | .cucSec => 64
  | .cucFrc => 80
  | .cucUsed => 8
  | .pfield => 16
  | .pfLen => 2
  | .fix => 136
  | .fixFbits => 8
  | .dtSec => 64
  | .dtSub => 32
  | .epSec => 64
  | .epSub => 32
  | .elSec => 64
  | .elSub => 32

/-- The "access" column of R47. -/
def Reg.access : Reg → Access
  | .cmd => .command
  | .status | .errlog | .errinfo | .result | .vfail | .dlen | .reqid | .pecRx | .cucUsed
  | .pfield | .pfLen | .fix | .fixFbits | .elSec | .elSub => .readOnly
  | .hasPec | .tcSrcW | .tmCntW | .tmDstW | .ver | .ptype | .shf | .apid | .seqf | .seqc
  | .pusv | .ack | .stat | .svc | .sub | .src | .cnt | .dst | .crc | .pktLen | .datLen
  | .cucBasic | .cucFrac | .cucHasp | .cucTcid | .cucSec | .cucFrc | .dtSec | .dtSub | .epSec
  | .epSub => .readWrite

/-- The value a register holds. -/
def Regs.get (x : Regs) : (r : Reg) → BitVec r.width
  | .cmd => x.cmd
  | .status => x.status
  | .errlog => x.errlog
  | .errinfo => x.errinfo
  | .result => x.result
  | .vfail => x.vfail
  | .hasPec => x.hasPec
  | .tcSrcW => x.tcSrcW
  | .tmCntW => x.tmCntW
  | .tmDstW => x.tmDstW
  | .ver => x.ver
  | .ptype => x.ptype
  | .shf => x.shf
  | .apid => x.apid
  | .seqf => x.seqf
  | .seqc => x.seqc
  | .dlen => x.dlen
  | .pusv => x.pusv
  | .ack => x.ack
  | .stat => x.stat
  | .svc => x.svc
  | .sub => x.sub
  | .src => x.src
  | .cnt => x.cnt
  | .dst => x.dst
  | .reqid => x.reqid
  | .pecRx => x.pecRx
  | .crc => x.crc
  | .pktLen => x.pktLen
  | .datLen => x.datLen
  | .cucBasic => x.cucBasic
  | .cucFrac => x.cucFrac
  | .cucHasp => x.cucHasp
  | .cucTcid => x.cucTcid
  | .cucSec => x.cucSec
  | .cucFrc => x.cucFrc
  | .cucUsed => x.cucUsed
  | .pfield => x.pfield
  | .pfLen => x.pfLen
  | .fix => x.fix
  | .fixFbits => x.fixFbits
  | .dtSec => x.dtSec
  | .dtSub => x.dtSub
  | .epSec => x.epSec
  | .epSub => x.epSub
  | .elSec => x.elSec
  | .elSub => x.elSub

/-- The registers with one of them holding another value. -/
def Regs.set (x : Regs) : (r : Reg) → BitVec r.width → Regs
  | .cmd, v => { x with cmd := v }
  | .status, v => { x with status := v }
  | .errlog, v => { x with errlog := v }
  | .errinfo, v => { x with errinfo := v }
  | .result, v => { x with result := v }
  | .vfail, v => { x with vfail := v }
  | .hasPec, v => { x with hasPec := v }
  | .tcSrcW, v => { x with tcSrcW := v }
  | .tmCntW, v => { x with tmCntW := v }
  | .tmDstW, v => { x with tmDstW := v }
  | .ver, v => { x with ver := v }
  | .ptype, v => { x with ptype := v }
  | .shf, v => { x with shf := v }
  | .apid, v => { x with apid := v }
  | .seqf, v => { x with seqf := v }
  | .seqc, v => { x with seqc := v }
  | .dlen, v => { x with dlen := v }
  | .pusv, v => { x with pusv := v }
  | .ack, v => { x with ack := v }
  | .stat, v => { x with stat := v }
  | .svc, v => { x with svc := v }
  | .sub, v => { x with sub := v }
  | .src, v => { x with src := v }
  | .cnt, v => { x with cnt := v }
  | .dst, v => { x with dst := v }
  | .reqid, v => { x with reqid := v }
  | .pecRx, v => { x with pecRx := v }
  | .crc, v => { x with crc := v }
  | .pktLen, v => { x with pktLen := v }
  | .datLen, v => { x with datLen := v }
  | .cucBasic, v => { x with cucBasic := v }
  | .cucFrac, v => { x with cucFrac := v }
  | .cucHasp, v => { x with cucHasp := v }
  | .cucTcid, v => { x with cucTcid := v }
  | .cucSec, v => { x with cucSec := v }
  | .cucFrc, v => { x with cucFrc := v }
  | .cucUsed, v => { x with cucUsed := v }
  | .pfield, v => { x with pfield := v }
  | .pfLen, v => { x with pfLen := v }
  | .fix, v => { x with fix := v }
  | .fixFbits, v => { x with fixFbits := v }
  | .dtSec, v => { x with dtSec := v }
  | .dtSub, v => { x with dtSub := v }
  | .epSec, v => { x with epSec := v }
  | .epSub, v => { x with epSub := v }
  | .elSec, v => { x with elSec := v }
  | .elSub, v => { x with elSub := v }

end Sys2Proof.Machine
end

