-- ==== Sys2Proof/Machine/Ops.lean ====
section
/-! DEFINITION. The shared operations: buffer access, completing, raising an error (which is the CORE's
only exception), and the way an operation ends. -/

namespace Sys2Proof.Machine

/-! ### Buffers (10_state.md R45, 20_memory.md R71) -/

/-- The byte something has written at index `i`, if any. -/
def Memory.written : Memory → Nat → Option Byte
  | [], _ => none
  | (j, c) :: m, i => if i = j then some c else Memory.written m i

/-- The contents after byte `b` is written at index `i`. -/
def Memory.write : Memory → Nat → Byte → Memory
  | [], i, b => [(i, b)]
  | (j, c) :: m, i, b =>
    if i < j then (i, b) :: (j, c) :: m
    else if i = j then (i, b) :: m
    else (j, c) :: Memory.write m i b

/-- The bytes of a sequence as cells, the first at index `k`. -/
def cellsFrom (k : Nat) : Bytes → Memory
  | [] => []
  | b :: s => (k, b) :: cellsFrom (k + 1) s

/-- The contents after a sequence is written to indices 0 to len-1, "leaving higher indices unchanged"
(20_memory.md R71). -/
def Memory.overwrite (m : Memory) (s : Bytes) : Memory :=
  cellsFrom 0 s ++ m.filter (fun c => decide (s.length ≤ c.1))

/-- The contents of a buffer. -/
def State.buffer (s : State) : BufSel → Memory
  | .pkt => s.pkt
  | .dat => s.dat

/-- The state with other contents in a buffer. -/
def State.withBuffer (s : State) : BufSel → Memory → State
  | .pkt, m => { s with pkt := m }
  | .dat, m => { s with dat := m }

/-- The capacity of a buffer (00_scope.md R9). -/
def State.capacity (s : State) : BufSel → Nat
  | .pkt => s.params.pktCap
  | .dat => s.params.datCap

/-- The value of a buffer's length register (10_state.md R40). -/
def State.lengthOf (s : State) : BufSel → Nat
  | .pkt => s.regs.pktLen.toNat
  | .dat => s.regs.datLen.toNat

/-- The ONE definition of what a buffer byte reads as: what was written there, else the free value of
70_reset_and_hazards.md R272. -/
def State.byteAt (s : State) (b : BufSel) (i : Nat) : Byte :=
  ((s.buffer b).written i).getD (Config.freeByte s.resets b i)

/-- `buf[off..off+n)` (00_scope.md R13, the `take` of 20_memory.md R71). -/
def State.slice (s : State) (b : BufSel) : Nat → Nat → Bytes
  | _, 0 => []
  | off, n + 1 => s.byteAt b off :: s.slice b (off + 1) n

/-- The valid bytes of a buffer, `buf[0..length)` (10_state.md R45). -/
def State.valid (s : State) (b : BufSel) : Bytes := s.slice b 0 (s.lengthOf b)

/-- The state with one buffer byte written. -/
def State.writeByte (s : State) (b : BufSel) (i : Nat) (v : Byte) : State :=
  s.withBuffer b ((s.buffer b).write i v)

/-- The state with a buffer's length register written (10_state.md R40). -/
def State.withLength (s : State) : BufSel → Nat → State
  | .pkt, n => { s with regs := { s.regs with pktLen := BitVec.ofNat 32 n } }
  | .dat, n => { s with regs := { s.regs with datLen := BitVec.ofNat 32 n } }

/-- `put(buf, out)`: `buf[0..len(out)) <- out` and the length register with it (20_memory.md R71); the
caller has tested the capacity. -/
def State.put (s : State) (b : BufSel) (out : Bytes) : State :=
  (s.withBuffer b ((s.buffer b).overwrite out)).withLength b out.length

/-! ### Errors (60_exceptions.md) -/

/-- The stage identifiers of E_MALFORMED (60_exceptions.md R242). -/
inductive Stage where
  | hdr
  | dlen
  | pec
  | sechdr
  | opt
  | pfield
  | sec
  | frc
  deriving DecidableEq, Repr

/-- What of the time format E_TIMEFMT refuses (60_exceptions.md R242). -/
inductive TimeFmtCause where
  /-- CUC_BASIC or CUC_FRAC is out of range. -/
  | registers
  /-- The second octet of a decoded P-field announces a third. -/
  | thirdOctet
  deriving DecidableEq, Repr

/-- The error kinds of 60_exceptions.md R241 with what ERRINFO records of each (R242). -/
inductive Err where
  | malformed (stage : Stage)
  | range (failed : Mask)
  | timefmt (cause : TimeFmtCause)
  | length (need : Nat)
  | nowidth
  | epoch
  | illegal (w : CmdWord)
  | capacity (b : BufSel)
  deriving DecidableEq, Repr

/-- The stage numbers of 60_exceptions.md R242. -/
def Stage.number : Stage → Nat
  | .hdr => 1
  | .dlen => 2
  | .pec => 3
  | .sechdr => 4
  | .opt => 5
  | .pfield => 6
  | .sec => 7
  | .frc => 8

/-- The error codes of 60_exceptions.md R241. -/
def Err.code : Err → Nat
  | .malformed _ => 1
  | .range _ => 2
  | .timefmt _ => 3
  | .length _ => 4
  | .nowidth => 5
  | .epoch => 6
  | .illegal _ => 7
  | .capacity _ => 8

/-- What ERRINFO records (60_exceptions.md R242). -/
def Err.info : Err → BitVec 32
  | .malformed st => BitVec.ofNat 32 st.number
  | .range m => m
  | .timefmt .registers => 0
  | .timefmt .thirdOctet => 1
  | .length need => BitVec.ofNat 32 need
  | .nowidth => 0
  | .epoch => 0
  | .illegal w => w.setWidth 32
  | .capacity .pkt => 0
  | .capacity .dat => 1

/-! ### How an operation ends (60_exceptions.md R244, R245) -/

/-- STATUS of a command word and an error code: OP in bits 15:8, BUSY and bits 7:6 always 0, ERR in bit
4, CODE in bits 3:0; code 0 is completion (10_state.md R25). -/
def statusWord (w : CmdWord) (code : Nat) : BitVec 16 :=
  w.extractLsb' 8 8 ++ 0#3 ++ BitVec.ofBool (code != 0) ++ BitVec.ofNat 4 code

/-- What every completed command writes besides its own results (60_exceptions.md R245). -/
def State.complete (w : CmdWord) (s : State) : State :=
  { s with regs := { s.regs with cmd := w, status := statusWord w 0, errinfo := 0 } }

/-- TAKING AN EXCEPTION: the effects of a raise, "exactly those of 60_exceptions.md rule R244". No pc,
status or mode is saved: the CORE has none, and there is no return (R246). A VFAIL that the operation's
rule writes before it raises is in `s` already. -/
def State.raise (w : CmdWord) (e : Err) (s : State) : State :=
  { s with
    regs :=
      { s.regs with
        cmd := w
        status := statusWord w e.code
        errlog := s.regs.errlog ||| BitVec.twoPow 16 e.code
        errinfo := e.info } }

/-- The state with VFAIL written, ahead of a raise or of completion (10_state.md R29). -/
def State.withVfail (s : State) (m : Mask) : State := { s with regs := { s.regs with vfail := m } }

/-- The state with RESULT written (10_state.md R28). -/
def State.withResult (s : State) (yes : Bool) : State :=
  { s with regs := { s.regs with result := if yes then 1 else 0 } }

/-- How a step or a meaning ends. -/
abbrev Result := Host.Outcome State Fault Refusal

/-- An operation ends in one of exactly two ways (60_exceptions.md R240): it completes, committing its
writes together, or it raises, from the state `s` in which nothing of it is committed. -/
def finish (w : CmdWord) (s : State) : Except Err State → Result
  | .ok t => .next (t.complete w)
  | .error e => .next (s.raise w e)

end Sys2Proof.Machine
end

