-- ==== Sys2Proof/Machine/Crc.lean ====
section
/-! DEFINITION. The CRC family (40_crc.md). -/

namespace Sys2Proof.Machine

/-- The state with the CRC register written (10_state.md R39). -/
def State.withCrc (s : State) (c : BitVec 16) : State := { s with regs := { s.regs with crc := c } }

/-- CRC.INIT (40_crc.md R105). -/
def execCrcInit (s : State) : Result := finish (encode .crcInit) s (.ok (s.withCrc crcPreset))

/-- CRC.BYTE (40_crc.md R106). -/
def execCrcByte (byte : Byte) (s : State) : Result :=
  finish (encode (.crcByte byte)) s (.ok (s.withCrc (crcStep s.regs.crc byte)))

/-- CRC.BUF (40_crc.md R107). -/
def execCrcBuf (b : BufSel) (s : State) : Result :=
  finish (encode (.crcBuf b)) s
    (if s.capacity b < s.lengthOf b then .error (.capacity b)
     else .ok (s.withCrc (crc16 (s.valid b))))

/-- CRC.APPEND (40_crc.md R108). -/
def execCrcAppend (s : State) : Result :=
  let n := s.lengthOf .pkt
  let c := crc16 (s.valid .pkt)
  finish (encode .crcAppend) s
    (if s.capacity .pkt < n ∨ s.capacity .pkt < n + 2 then .error (.capacity .pkt)
     else
       .ok
         ((((s.writeByte .pkt n (c.extractLsb' 8 8)).writeByte .pkt (n + 1) (c.extractLsb' 0 8)).withLength
           .pkt (n + 2)).withCrc c))

/-- CRC.CHECK (40_crc.md R109): a mismatch is not an error. -/
def execCrcCheck (s : State) : Result :=
  let n := s.lengthOf .pkt
  let c := crc16 (s.slice .pkt 0 (n - 2))
  let r := BitVec.ofNat 16 (beVal (s.slice .pkt (n - 2) 2))
  finish (encode .crcCheck) s
    (if s.capacity .pkt < n then .error (.capacity .pkt)
     else if n < 2 then .error (.malformed .pec)
     else
       .ok
         (({ s with regs := { s.regs with crc := c, pecRx := r } }).withResult (c == r)))

end Sys2Proof.Machine
end

