-- ==== Sys2Proof/Machine/Flags.lean ====
section
/-! DEFINITION. The check functions of the validators: VFAIL's bits (45_validators.md, 41_cuc.md R121,
R125). -/

namespace Sys2Proof.Machine

/-- The mask of one check: bit `k` when it fails, nothing when it passes (45_validators.md R211). -/
def flagBit (k : Nat) (failed : Bool) : Mask := if failed then BitVec.twoPow 32 k else 0

/-- 1 exactly when HAS_PEC is set (10_state.md R30). -/
def Regs.pec (r : Regs) : Bool := r.hasPec == 1

/-- Length of the PEC trailer in a packet: 2 or 0 (00_scope.md R9, 42_space_packet.md R152). -/
def Regs.pecLen (r : Regs) : Nat := if r.pec then 2 else 0

/-- A width register's value where it is legal, else 0 (43_pus_tc.md R175, 44_pus_tm.md R194). -/
def legalWidth (w : Nat) : Nat := if w ≤ 8 then w else 0

/-- `hdr_checks(full)` (45_validators.md R212). -/
def hdrChecks (full : Bool) (r : Regs) : Mask :=
  flagBit 0 (7 < r.ver.toNat)
    ||| flagBit 1 (full && 1 < r.ptype.toNat)
    ||| flagBit 2 (full && 1 < r.shf.toNat)
    ||| flagBit 3 (2047 < r.apid.toNat)
    ||| flagBit 4 (3 < r.seqf.toNat)
    ||| flagBit 5 (16383 < r.seqc.toNat)

/-- `len_checks(pl)` (45_validators.md R213). -/
def lenChecks (p : Params) (r : Regs) (pl : Nat) : Mask :=
  let dfl := pl + r.pecLen
  flagBit 6 (dfl < 1 || 65536 < dfl)
    ||| flagBit 22 (p.datCap < r.datLen.toNat || p.pktCap < 6 + dfl)

/-- `pusv_advisory(v)` (45_validators.md R214). -/
def pusvAdvisory (v : Nat) : Mask := flagBit 24 (v != 1 && v != 2)

/-- A value does not fit an optional field that is present (45_validators.md R211, F_SRC, F_CNT, F_DST). -/
def optTooBig (w v : Nat) : Bool := 1 ≤ w && w ≤ 8 && 2 ^ (8 * w) ≤ v

/-- `tc_checks()` (45_validators.md R219). -/
def tcChecks (r : Regs) : Mask :=
  flagBit 7 (15 < r.pusv.toNat)
    ||| flagBit 8 (15 < r.ack.toNat)
    ||| flagBit 10 (255 < r.svc.toNat)
    ||| flagBit 11 (255 < r.sub.toNat)
    ||| flagBit 12 (8 < r.tcSrcW.toNat)
    ||| flagBit 13 (optTooBig r.tcSrcW.toNat r.src.toNat)

/-- `tm_checks()` (45_validators.md R220). -/
def tmChecks (r : Regs) : Mask :=
  flagBit 7 (15 < r.pusv.toNat)
    ||| flagBit 9 (15 < r.stat.toNat)
    ||| flagBit 10 (255 < r.svc.toNat)
    ||| flagBit 11 (255 < r.sub.toNat)
    ||| flagBit 14 (8 < r.tmCntW.toNat)
    ||| flagBit 15 (optTooBig r.tmCntW.toNat r.cnt.toNat)
    ||| flagBit 16 (8 < r.tmDstW.toNat)
    ||| flagBit 17 (optTooBig r.tmDstW.toNat r.dst.toNat)

/-- `fmt_ok(basic, frac)` (41_cuc.md R121). -/
def fmtOk (basic frac : Nat) : Bool := 1 ≤ basic && basic ≤ 7 && frac ≤ 10

/-- `fmt_ok` of the format registers. -/
def Regs.fmtOk (r : Regs) : Bool := Machine.fmtOk r.cucBasic.toNat r.cucFrac.toNat

/-- CUC_HASP is set (10_state.md R41). -/
def Regs.hasP (r : Regs) : Bool := r.cucHasp == 1

/-- `time_checks(need_tcid)` (41_cuc.md R125). -/
def timeChecks (needTcid : Bool) (r : Regs) : Mask :=
  flagBit 18 (!r.fmtOk)
    ||| flagBit 19 (needTcid && 7 < r.cucTcid.toNat)
    ||| flagBit 20 (r.fmtOk && 2 ^ (8 * r.cucBasic.toNat) - 1 < r.cucSec.toNat)
    ||| flagBit 21 (r.fmtOk && 2 ^ (8 * r.cucFrac.toNat) - 1 < r.cucFrc.toNat)

/-- The error of a time mask (41_cuc.md R125): the format first, then the ranges. -/
def timeRaise (m : Mask) : Option Err :=
  if m.getLsbD 18 then some (.timefmt .registers)
  else if m ≠ 0 then some (.range m)
  else none

/-- `P` widths that need a second octet (41_cuc.md R122). -/
def twoOctets (basic frac : Nat) : Bool := 4 < basic || 3 < frac

/-- Number of P-field octets of a time field (41_cuc.md R126). -/
def pfieldLen (hasp : Bool) (basic frac : Nat) : Nat :=
  if hasp then (if twoOctets basic frac then 2 else 1) else 0

/-- `tl`: the length of the time field where the format is valid, else 0 (44_pus_tm.md R194). -/
def Regs.timeLen (r : Regs) : Nat :=
  if r.fmtOk then
    pfieldLen r.hasP r.cucBasic.toNat r.cucFrac.toNat + r.cucBasic.toNat + r.cucFrac.toNat
  else 0

/-- `pl` of an SP operation (42_space_packet.md R154). -/
def spPayloadLen (r : Regs) : Nat := r.datLen.toNat

/-- `pl` of a TC operation (43_pus_tc.md R175). -/
def tcPayloadLen (r : Regs) : Nat := 3 + legalWidth r.tcSrcW.toNat + r.datLen.toNat

/-- `pl` of a TM operation (44_pus_tm.md R194). -/
def tmPayloadLen (r : Regs) : Nat :=
  3 + legalWidth r.tmCntW.toNat + legalWidth r.tmDstW.toNat + r.timeLen + r.datLen.toNat

/-- The checks of SP.PACK and SP.VAL (42_space_packet.md R154, 45_validators.md R216). -/
def spMask (s : State) : Mask := hdrChecks true s.regs ||| lenChecks s.params s.regs (spPayloadLen s.regs)

/-- The checks of TC.PACK and TC.VAL (43_pus_tc.md R175, 45_validators.md R217). -/
def tcMask (s : State) : Mask :=
  hdrChecks false s.regs ||| tcChecks s.regs ||| lenChecks s.params s.regs (tcPayloadLen s.regs)
    ||| pusvAdvisory s.regs.pusv.toNat

/-- The checks of TM.PACK and TM.VAL (44_pus_tm.md R194, 45_validators.md R218). -/
def tmMask (s : State) : Mask :=
  hdrChecks false s.regs ||| tmChecks s.regs ||| timeChecks s.regs.hasP s.regs
    ||| lenChecks s.params s.regs (tmPayloadLen s.regs) ||| pusvAdvisory s.regs.pusv.toNat

/-- `pack_raise(m)`: at most one raise, by fixed priority (45_validators.md R215). -/
def packRaise (s : State) (m : Mask) : Option Err :=
  if m.getLsbD 18 then some (.timefmt .registers)
  else if m &&& 0x00BBFFFF ≠ 0 then some (.range m)
  else if m.getLsbD 22 then
    some (.capacity (if s.params.datCap < s.regs.datLen.toNat then .dat else .pkt))
  else none

/-- No required check failed: RESULT of a packet VAL operation (45_validators.md R216 to R218). -/
def requiredPass (m : Mask) : Bool := m &&& 0x00FFFFFF == 0

/-- The advisory findings of TC.PARSE and TM.PARSE (43_pus_tc.md R178, 44_pus_tm.md R197): the PUS
version, the packet type when it is not `want`, the secondary header flag when it is 0. -/
def parseAdvisory (pusv : BitVec 4) (want typ shf : BitVec 1) : Mask :=
  pusvAdvisory pusv.toNat ||| flagBit 25 (typ != want) ||| flagBit 26 (shf != 1)

end Sys2Proof.Machine
end

