-- ==== Sys2Proof/Machine/Operands.lean ====
section
/-! DEFINITION. The wire formats: primary header, frame, secondary headers, CUC time field
(42_space_packet.md, 43_pus_tc.md R172, 44_pus_tm.md R191, 41_cuc.md R122 to R128, R140). -/

namespace Sys2Proof.Machine

/-! ### The primary header (42_space_packet.md R151) -/

/-- The fields of the primary header at their wire widths. -/
structure Header where
  ver : BitVec 3
  typ : BitVec 1
  shf : BitVec 1
  apid : BitVec 11
  seqf : BitVec 2
  seqc : BitVec 14
  dl : BitVec 16
  deriving DecidableEq, Repr

/-- The first four bytes of the header as one number, MSB first: version, type, secondary header flag
and APID; sequence flags and sequence count. It is also the request identifier (43_pus_tc.md R186). -/
def packetId (ver : BitVec 3) (typ shf : BitVec 1) (apid : BitVec 11) (seqf : BitVec 2)
    (seqc : BitVec 14) : BitVec 32 :=
  ver ++ typ ++ shf ++ apid ++ seqf ++ seqc

/-- The six bytes of the header as one number: the fields one after another, most significant first
(42_space_packet.md R151, 00_scope.md R12). -/
def Header.word (h : Header) : BitVec 48 :=
  packetId h.ver h.typ h.shf h.apid h.seqf h.seqc ++ h.dl

/-- `hdr_pack` (42_space_packet.md R151). -/
def hdrPack (h : Header) : Bytes := be 6 h.word.toNat

/-- `hdr_unpack` of six bytes (42_space_packet.md R151). -/
def hdrUnpack (s : Bytes) : Header :=
  let w := BitVec.ofNat 48 (beVal s)
  { ver := w.extractLsb' 45 3
    typ := w.extractLsb' 44 1
    shf := w.extractLsb' 43 1
    apid := w.extractLsb' 32 11
    seqf := w.extractLsb' 30 2
    seqc := w.extractLsb' 16 14
    dl := w.extractLsb' 0 16 }

/-- The header a pack operation lays down from the operand registers, with a packet type, a secondary
header flag and a length field. It is only used after the checks have shown that every value fits. -/
def Regs.header (r : Regs) (typ shf : BitVec 1) (dl : Nat) : Header where
  ver := r.ver.setWidth 3
  typ := typ
  shf := shf
  apid := r.apid.setWidth 11
  seqf := r.seqf.setWidth 2
  seqc := r.seqc.setWidth 14
  dl := BitVec.ofNat 16 dl

/-! ### The packet (42_space_packet.md R150 to R157) -/

/-- The whole packet of a header and a payload, with the PEC of all preceding bytes when it is enabled
(42_space_packet.md R153). -/
def packetBytes (h : Header) (payload : Bytes) (pec : Bool) : Bytes :=
  let body := hdrPack h ++ payload
  if pec then body ++ pecBytes (crc16 body) else body

/-- What a pack operation commits once nothing raises: the packet in PKT, PKT_LEN, and DLEN, the length
field `dl = pl + (HAS_PEC = 1 ? 2 : 0) - 1` (42_space_packet.md R152, R154). -/
def State.putPacket (s : State) (typ shf : BitVec 1) (payload : Bytes) : State :=
  let dl := payload.length + s.regs.pecLen - 1
  let t := s.put .pkt (packetBytes (s.regs.header typ shf dl) payload s.regs.pec)
  { t with regs := { t.regs with dlen := BitVec.ofNat 16 dl } }

/-- The state with TYPE and SHF written, as TC.PACK and TM.PACK do (43_pus_tc.md R175, 44_pus_tm.md
R194). -/
def State.withTypeFlag (s : State) (typ shf : BitVec 1) : State :=
  { s with regs := { s.regs with ptype := typ.setWidth 32, shf := shf.setWidth 32 } }

/-- What `frame_split` returns (42_space_packet.md R156). -/
structure Frame where
  hdr : Header
  /-- The payload length. -/
  pl : Nat
  /-- The PEC trailer, 0 when there is none. -/
  pec : BitVec 16
  deriving DecidableEq, Repr

/-- `frame_split()` (42_space_packet.md R156). -/
def frameSplit (s : State) : Except Err Frame :=
  let len := s.lengthOf .pkt
  let h := hdrUnpack (s.slice .pkt 0 6)
  let need := 6 + h.dl.toNat + 1
  if s.capacity .pkt < len then .error (.capacity .pkt)
  else if len < 6 then .error (.malformed .hdr)
  else if len < need then .error (.malformed .dlen)
  else if need < len then .error (.length need)
  else if s.regs.pec ∧ h.dl.toNat + 1 < 2 then .error (.malformed .pec)
  else
    .ok
      { hdr := h
        pl := h.dl.toNat + 1 - s.regs.pecLen
        pec := if s.regs.pec then BitVec.ofNat 16 (beVal (s.slice .pkt (need - 2) 2)) else 0 }

/-- What every PARSE operation writes of a frame: the primary header registers, DLEN and PEC_RX, each
field zero-extended (42_space_packet.md R157, 20_memory.md R72). -/
def Regs.putFrame (r : Regs) (f : Frame) : Regs :=
  { r with
    ver := f.hdr.ver.setWidth 32
    ptype := f.hdr.typ.setWidth 32
    shf := f.hdr.shf.setWidth 32
    apid := f.hdr.apid.setWidth 32
    seqf := f.hdr.seqf.setWidth 32
    seqc := f.hdr.seqc.setWidth 32
    dlen := f.hdr.dl
    pecRx := f.pec }

/-! ### The secondary headers -/

/-- An optional field: nothing at width 0, else the big-endian value (43_pus_tc.md R172). -/
def optField (w v : Nat) : Bytes := be w v

/-- `tc_sechdr` (43_pus_tc.md R172). -/
def tcSechdr (pusv ack : BitVec 4) (svc sub : Byte) (w src : Nat) : Bytes :=
  [pusv ++ ack, svc, sub] ++ optField w src

/-- `tm_sechdr` (44_pus_tm.md R191). -/
def tmSechdr (pusv stat : BitVec 4) (svc sub : Byte) (cw cnt dw dst : Nat) (time : Bytes) : Bytes :=
  [pusv ++ stat, svc, sub] ++ optField cw cnt ++ optField dw dst ++ time

/-! ### The CUC time field (41_cuc.md) -/

/-- `pf_enc(basic, frac, tcid)` (41_cuc.md R122 to R124). -/
def pfEnc (basic frac tcid : Nat) : Bytes :=
  let ext := twoOctets basic frac
  let b1 := min (basic - 1) 3
  let f1 := min frac 3
  let o1 : Byte := BitVec.ofBool ext ++ BitVec.ofNat 3 tcid ++ BitVec.ofNat 2 b1 ++ BitVec.ofNat 2 f1
  let o2 : Byte := 0#1 ++ BitVec.ofNat 2 (basic - 1 - b1) ++ BitVec.ofNat 3 (frac - f1) ++ 0#2
  if ext then [o1, o2] else [o1]

/-- What `pf_dec` returns (41_cuc.md R124). -/
structure PField where
  basic : Nat
  frac : Nat
  tcid : BitVec 3
  /-- Number of octets, 1 or 2. -/
  n : Nat
  o1 : Byte
  /-- The second octet, 0 when there is none. -/
  o2 : Byte
  deriving DecidableEq, Repr

/-- `pf_dec(s)` (41_cuc.md R124). -/
def pfDec : Bytes → Except Err PField
  | o1 :: o2 :: _ =>
    let tcid := o1.extractLsb' 4 3
    let basic := (o1.extractLsb' 2 2).toNat + 1
    let frac := (o1.extractLsb' 0 2).toNat
    if o1.getLsbD 7 then
      if o2.getLsbD 7 then .error (.timefmt .thirdOctet)
      else
        .ok
          { basic := basic + (o2.extractLsb' 5 2).toNat
            frac := frac + (o2.extractLsb' 2 3).toNat
            tcid := tcid
            n := 2
            o1 := o1
            o2 := o2 }
    else .ok { basic := basic, frac := frac, tcid := tcid, n := 1, o1 := o1, o2 := 0 }
  | _ => .error (.malformed .pfield)

/-- `cuc_enc(hasp, basic, frac, tcid, sec, frc)` (41_cuc.md R126). -/
def cucEnc (hasp : Bool) (basic frac tcid sec frc : Nat) : Bytes :=
  (if hasp then pfEnc basic frac tcid else []) ++ be basic sec ++ be frac frc

/-- `cuc_enc` of the CUC registers. -/
def Regs.timeField (r : Regs) : Bytes :=
  cucEnc r.hasP r.cucBasic.toNat r.cucFrac.toNat r.cucTcid.toNat r.cucSec.toNat r.cucFrc.toNat

/-- What `cuc_dec` returns (41_cuc.md R128). -/
structure TimeField where
  basic : Nat
  frac : Nat
  /-- The time-code identifier, when there was a P-field. -/
  tcid : Option (BitVec 3)
  sec : Nat
  frc : Nat
  /-- Number of bytes consumed. -/
  used : Nat
  deriving DecidableEq, Repr

/-- The seconds and fraction stages of `cuc_dec`, from offset `off` (41_cuc.md R128). -/
def tfieldDec (s : Bytes) (off basic frac : Nat) (tcid : Option (BitVec 3)) : Except Err TimeField :=
  if s.length < off + basic then .error (.malformed .sec)
  else if s.length < off + basic + frac then .error (.malformed .frc)
  else
    .ok
      { basic := basic
        frac := frac
        tcid := tcid
        sec := beVal ((s.drop off).take basic)
        frc := beVal ((s.drop (off + basic)).take frac)
        used := off + basic + frac }

/-- `cuc_dec(s, hasp, basic, frac)` (41_cuc.md R128). The value 0xFF of a width is "not supplied"
(10_state.md R41). -/
def cucDec (s : Bytes) (hasp : Bool) (basic frac : Nat) : Except Err TimeField :=
  if hasp then
    match pfDec s with
    | .error e => .error e
    | .ok p => tfieldDec s p.n p.basic p.frac (some p.tcid)
  else if basic = 0xFF ∨ frac = 0xFF then .error .nowidth
  else if !fmtOk basic frac then .error (.timefmt .registers)
  else tfieldDec s 0 basic frac none

/-- What CUC.DEC and TM.PARSE write of a decoded time field (41_cuc.md R138, 44_pus_tm.md R197): the
format registers only when there was a P-field, and the value. -/
def Regs.putTime (r : Regs) (t : TimeField) : Regs :=
  match t.tcid with
  | some tcid =>
    { r with
      cucBasic := BitVec.ofNat 8 t.basic
      cucFrac := BitVec.ofNat 8 t.frac
      cucTcid := tcid.setWidth 32
      cucSec := BitVec.ofNat 64 t.sec
      cucFrc := BitVec.ofNat 80 t.frc
      cucUsed := BitVec.ofNat 8 t.used }
  | none =>
    { r with
      cucSec := BitVec.ofNat 64 t.sec
      cucFrc := BitVec.ofNat 80 t.frc
      cucUsed := BitVec.ofNat 8 t.used }

/-- `rhe(a, d)`: the nearest integer to `a / d`, ties to even (41_cuc.md R140). -/
def rhe (a d : Nat) : Nat :=
  let q := a / d
  let r := a % d
  if d < 2 * r ∨ (2 * r = d ∧ q % 2 = 1) then q + 1 else q

end Sys2Proof.Machine
end

