-- ==== Sys2Proof/Machine/Cuc.lean ====
section
/-! DEFINITION. The CUC family (41_cuc.md). -/

namespace Sys2Proof.Machine

/-- CUC.VAL: the checks reported, never raised (41_cuc.md R130). -/
def execCucVal (s : State) : Result :=
  let m := timeChecks s.regs.hasP s.regs
  finish (encode .cucVal) s (.ok ((s.withVfail m).withResult (m == 0)))

/-- CUC.PENC (41_cuc.md R132). -/
def execCucPenc (s : State) : Result :=
  let m := timeChecks true s.regs &&& 0x000C0000
  let p := pfEnc s.regs.cucBasic.toNat s.regs.cucFrac.toNat s.regs.cucTcid.toNat
  let t := s.withVfail m
  finish (encode .cucPenc) t
    (match timeRaise m with
     | some e => .error e
     | none =>
       .ok
         { t with
           regs :=
             { t.regs with
               pfield := p.getD 0 0 ++ p.getD 1 0
               pfLen := BitVec.ofNat 2 p.length
               cucUsed := BitVec.ofNat 8 p.length } })

/-- CUC.PDEC (41_cuc.md R134). -/
def execCucPdec (s : State) : Result :=
  finish (encode .cucPdec) s
    (if s.capacity .dat < s.lengthOf .dat then .error (.capacity .dat)
     else
       match pfDec (s.valid .dat) with
       | .error e => .error e
       | .ok p =>
         .ok
           { s with
             regs :=
               { s.regs with
                 cucBasic := BitVec.ofNat 8 p.basic
                 cucFrac := BitVec.ofNat 8 p.frac
                 cucTcid := p.tcid.setWidth 32
                 pfield := p.o1 ++ p.o2
                 pfLen := BitVec.ofNat 2 p.n
                 cucUsed := BitVec.ofNat 8 p.n
                 vfail := 0 } })

/-- CUC.ENC (41_cuc.md R136). -/
def execCucEnc (s : State) : Result :=
  let m := timeChecks s.regs.hasP s.regs
  let out := s.regs.timeField
  let t := s.withVfail m
  finish (encode .cucEnc) t
    (match timeRaise m with
     | some e => .error e
     | none =>
       if s.capacity .dat < out.length then .error (.capacity .dat)
       else
         let u := t.put .dat out
         .ok { u with regs := { u.regs with cucUsed := BitVec.ofNat 8 out.length } })

/-- CUC.DEC (41_cuc.md R138). -/
def execCucDec (s : State) : Result :=
  finish (encode .cucDec) s
    (if s.capacity .dat < s.lengthOf .dat then .error (.capacity .dat)
     else
       match cucDec (s.valid .dat) s.regs.hasP s.regs.cucBasic.toNat s.regs.cucFrac.toNat with
       | .error e => .error e
       | .ok f => .ok { s with regs := { s.regs.putTime f with vfail := 0 } })

/-- A time of the calendar registers, in sub-second units (41_cuc.md R142). -/
def subUnits (p : Params) (sec sub : Nat) : Nat := sec * p.dtDen + sub

/-- The mask CUC.FROMDT tests first: the format, and the sub-second operands (41_cuc.md R142). -/
def fromdtMask (s : State) : Mask :=
  (timeChecks false s.regs &&& 0x00040000)
    ||| flagBit 23 (s.params.dtDen ≤ s.regs.dtSub.toNat || s.params.dtDen ≤ s.regs.epSub.toNat)

/-- The elapsed time `dt - epoch` in sub-second units, where it is not negative (41_cuc.md R142). -/
def elapsed (s : State) : Nat :=
  subUnits s.params s.regs.dtSec.toNat s.regs.dtSub.toNat
    - subUnits s.params s.regs.epSec.toNat s.regs.epSub.toNat

/-- `sec` of CUC.FROMDT: never rounded up when there is a fraction field (41_cuc.md R142). -/
def fromdtSec (frac t d : Nat) : Nat := if 0 < frac then t / d else rhe t d

/-- `frc` of CUC.FROMDT: the sub-second part scaled by `2^(8*frac) - 1` (41_cuc.md R142). -/
def fromdtFrc (frac t d : Nat) : Nat := if 0 < frac then rhe (t % d * (2 ^ (8 * frac) - 1)) d else 0

/-- CUC.FROMDT (41_cuc.md R142). -/
def execCucFromdt (s : State) : Result :=
  let w := encode .cucFromdt
  let m := fromdtMask s
  let d := s.params.dtDen
  let t := elapsed s
  let sec := fromdtSec s.regs.cucFrac.toNat t d
  let u := s.withVfail m
  match timeRaise m with
  | some e => finish w u (.error e)
  | none =>
    if subUnits s.params s.regs.dtSec.toNat s.regs.dtSub.toNat
        < subUnits s.params s.regs.epSec.toNat s.regs.epSub.toNat then
      finish w u (.error .epoch)
    else if 2 ^ (8 * s.regs.cucBasic.toNat) - 1 < sec then
      finish w (s.withVfail 0x00100000) (.error (.range 0x00100000))
    else
      finish w u
        (.ok
          { u with
            regs :=
              { u.regs with
                cucSec := BitVec.ofNat 64 sec
                cucFrc := BitVec.ofNat 80 (fromdtFrc s.regs.cucFrac.toNat t d)
                elSec := BitVec.ofNat 64 (t / d)
                elSub := BitVec.ofNat 32 (t % d) } })

/-- CUC.TOFIX (41_cuc.md R144). -/
def execCucTofix (s : State) : Result :=
  let m := timeChecks false s.regs
  let t := s.withVfail m
  finish (encode .cucTofix) t
    (match timeRaise m with
     | some e => .error e
     | none =>
       .ok
         { t with
           regs :=
             { t.regs with
               fix := BitVec.ofNat 136
                 (s.regs.cucSec.toNat * 2 ^ (8 * s.regs.cucFrac.toNat) + s.regs.cucFrc.toNat)
               fixFbits := BitVec.ofNat 8 (8 * s.regs.cucFrac.toNat) } })

end Sys2Proof.Machine
end

