-- ==== Sys2Proof/Machine/Sp.lean ====
section
/-! DEFINITION. The SP family: the generic space packet (42_space_packet.md, 45_validators.md R216). -/

namespace Sys2Proof.Machine

/-- SP.VAL (45_validators.md R216). -/
def execSpVal (s : State) : Result :=
  let m := spMask s
  finish (encode .spVal) s (.ok ((s.withVfail m).withResult (requiredPass m)))

/-- SP.PACK (42_space_packet.md R154). -/
def execSpPack (s : State) : Result :=
  let m := spMask s
  let t := s.withVfail m
  finish (encode .spPack) t
    (match packRaise s m with
     | some e => .error e
     | none =>
       .ok (t.putPacket (s.regs.ptype.setWidth 1) (s.regs.shf.setWidth 1) (s.valid .dat)))

/-- SP.PARSE (42_space_packet.md R157). -/
def execSpParse (s : State) : Result :=
  finish (encode .spParse) s
    (match frameSplit s with
     | .error e => .error e
     | .ok f =>
       if s.capacity .dat < f.pl then .error (.capacity .dat)
       else
         .ok
           (({ s with regs := { s.regs.putFrame f with vfail := 0 } }).put .dat
             (s.slice .pkt 6 f.pl)))

end Sys2Proof.Machine
end

