-- ==== Sys2Proof/Machine/Sys.lean ====
section
/-! DEFINITION. The SYS family (46_system.md). -/

namespace Sys2Proof.Machine

/-- SYS.NOP: nothing besides the success effects (46_system.md R231). -/
def execSysNop (s : State) : Result := finish (encode .sysNop) s (.ok s)

/-- SYS.CLRERR (46_system.md R232). -/
def execSysClrerr (s : State) : Result :=
  finish (encode .sysClrerr) s (.ok { s with regs := { s.regs with errlog := 0 } })

/-- SYS.RESET: every register, CMD and STATUS included, gets its reset value; no byte of PKT or DAT
changes (46_system.md R233). -/
def execSysReset (s : State) : Result := .next { s with regs := Regs.reset }

end Sys2Proof.Machine
end

