-- ==== Sys2Proof/Machine/Tc.lean ====
section
/-! DEFINITION. The TC family: PUS telecommand packets (43_pus_tc.md, 45_validators.md R217). -/

namespace Sys2Proof.Machine

/-- TC.VAL (45_validators.md R217). -/
def execTcVal (s : State) : Result :=
  let m := tcMask s
  finish (encode .tcVal) s (.ok ((s.withVfail m).withResult (requiredPass m)))

/-- The payload TC.PACK lays down: the secondary header, then the application data (43_pus_tc.md R172,
R175). -/
def tcPayload (s : State) : Bytes :=
  tcSechdr (s.regs.pusv.setWidth 4) (s.regs.ack.setWidth 4) (s.regs.svc.setWidth 8)
    (s.regs.sub.setWidth 8) s.regs.tcSrcW.toNat s.regs.src.toNat ++ s.valid .dat

/-- TC.PACK: packet type 1 and flag 1 are forced, and written back (43_pus_tc.md R175). -/
def execTcPack (s : State) : Result :=
  let m := tcMask s
  let t := s.withVfail m
  finish (encode .tcPack) t
    (match packRaise s m with
     | some e => .error e
     | none => .ok ((t.putPacket 1 1 (tcPayload s)).withTypeFlag 1 1))

/-- What TC.PARSE writes of a frame whose payload is `p` (43_pus_tc.md R178). -/
def Regs.putTc (r : Regs) (f : Frame) (w : Nat) (p : Bytes) : Regs :=
  let o0 := p.getD 0 0
  { r.putFrame f with
    pusv := (o0.extractLsb' 4 4).setWidth 32
    ack := (o0.extractLsb' 0 4).setWidth 32
    svc := (p.getD 1 0).setWidth 32
    sub := (p.getD 2 0).setWidth 32
    src := BitVec.ofNat 64 (beVal ((p.drop 3).take w))
    vfail := parseAdvisory (o0.extractLsb' 4 4) 1 f.hdr.typ f.hdr.shf }

/-- TC.PARSE (43_pus_tc.md R178). -/
def execTcParse (s : State) : Result :=
  let c := encode .tcParse
  let w := s.regs.tcSrcW.toNat
  if 8 < w then finish c (s.withVfail 0x00001000) (.error (.range 0x00001000))
  else
    finish c s
      (match frameSplit s with
       | .error e => .error e
       | .ok f =>
         let p := s.slice .pkt 6 f.pl
         if f.pl < 3 then .error (.malformed .sechdr)
         else if f.pl < 3 + w then .error (.malformed .opt)
         else if s.capacity .dat < f.pl - 3 - w then .error (.capacity .dat)
         else .ok (({ s with regs := s.regs.putTc f w p }).put .dat (p.drop (3 + w))))

/-- TC.ACK: bits of ACK above bit 3 are never looked at (43_pus_tc.md R183). -/
def execTcAck (m : BitVec 4) (s : State) : Result :=
  finish (encode (.tcAck m)) s (.ok (s.withResult (s.regs.ack &&& m.setWidth 32 != 0)))

/-- TC.REQID (43_pus_tc.md R186). -/
def execTcReqid (s : State) : Result :=
  let m := hdrChecks true s.regs
  let t := s.withVfail m
  finish (encode .tcReqid) t
    (if m ≠ 0 then .error (.range m)
     else
       .ok
         { t with
           regs :=
             { t.regs with
               reqid := packetId (s.regs.ver.setWidth 3) (s.regs.ptype.setWidth 1)
                 (s.regs.shf.setWidth 1) (s.regs.apid.setWidth 11) (s.regs.seqf.setWidth 2)
                 (s.regs.seqc.setWidth 14) } })

end Sys2Proof.Machine
end

