-- ==== Sys2Proof/Machine/Tm.lean ====
section
/-! DEFINITION. The TM family: PUS telemetry packets (44_pus_tm.md, 45_validators.md R218). -/

namespace Sys2Proof.Machine

/-- TM.VAL (45_validators.md R218). -/
def execTmVal (s : State) : Result :=
  let m := tmMask s
  finish (encode .tmVal) s (.ok ((s.withVfail m).withResult (requiredPass m)))

/-- The payload TM.PACK lays down: the secondary header, which ends with the time field, then the source
data (44_pus_tm.md R191, R194). -/
def tmPayload (s : State) : Bytes :=
  tmSechdr (s.regs.pusv.setWidth 4) (s.regs.stat.setWidth 4) (s.regs.svc.setWidth 8)
    (s.regs.sub.setWidth 8) s.regs.tmCntW.toNat s.regs.cnt.toNat s.regs.tmDstW.toNat
    s.regs.dst.toNat s.regs.timeField ++ s.valid .dat

/-- TM.PACK: packet type 0 and flag 1 are forced, and written back (44_pus_tm.md R194). -/
def execTmPack (s : State) : Result :=
  let m := tmMask s
  let t := s.withVfail m
  finish (encode .tmPack) t
    (match packRaise s m with
     | some e => .error e
     | none => .ok ((t.putPacket 0 1 (tmPayload s)).withTypeFlag 0 1))

/-- What TM.PARSE writes of a frame whose payload is `p` and whose time field is `t` (44_pus_tm.md
R197). -/
def Regs.putTm (r : Regs) (f : Frame) (cw dw : Nat) (p : Bytes) (t : TimeField) : Regs :=
  let o0 := p.getD 0 0
  { (r.putFrame f).putTime t with
    pusv := (o0.extractLsb' 4 4).setWidth 32
    stat := (o0.extractLsb' 0 4).setWidth 32
    svc := (p.getD 1 0).setWidth 32
    sub := (p.getD 2 0).setWidth 32
    cnt := BitVec.ofNat 64 (beVal ((p.drop 3).take cw))
    dst := BitVec.ofNat 64 (beVal ((p.drop (3 + cw)).take dw))
    vfail := parseAdvisory (o0.extractLsb' 4 4) 0 f.hdr.typ f.hdr.shf }

/-- The width checks TM.PARSE makes before it looks at PKT (44_pus_tm.md R197). -/
def tmWidthMask (r : Regs) : Mask :=
  flagBit 14 (8 < r.tmCntW.toNat) ||| flagBit 16 (8 < r.tmDstW.toNat)

/-- TM.PARSE (44_pus_tm.md R197). -/
def execTmParse (s : State) : Result :=
  let c := encode .tmParse
  let cw := s.regs.tmCntW.toNat
  let dw := s.regs.tmDstW.toNat
  let m := tmWidthMask s.regs
  if m ≠ 0 then finish c (s.withVfail m) (.error (.range m))
  else
    finish c s
      (match frameSplit s with
       | .error e => .error e
       | .ok f =>
         let p := s.slice .pkt 6 f.pl
         let o := 3 + cw + dw
         if f.pl < 3 then .error (.malformed .sechdr)
         else if f.pl < o then .error (.malformed .opt)
         else
           match cucDec (p.drop o) s.regs.hasP s.regs.cucBasic.toNat s.regs.cucFrac.toNat with
           | .error e => .error e
           | .ok t =>
             if s.capacity .dat < f.pl - o - t.used then .error (.capacity .dat)
             else .ok (({ s with regs := s.regs.putTm f cw dw p t }).put .dat (p.drop (o + t.used))))

end Sys2Proof.Machine
end

