-- ==== Sys2Proof/Machine/Dispatch.lean ====
section
/-! DEFINITION. One arm per operation. -/

namespace Sys2Proof.Machine

def exec (i : Instr) (s : State) : Host.Outcome State Fault Refusal :=
  match i with
  | .sysNop => Sys2Proof.Machine.execSysNop s
  | .sysClrerr => Sys2Proof.Machine.execSysClrerr s
  | .sysReset => Sys2Proof.Machine.execSysReset s
  | .crcInit => Sys2Proof.Machine.execCrcInit s
  | .crcByte byte => Sys2Proof.Machine.execCrcByte byte s
  | .crcBuf b => Sys2Proof.Machine.execCrcBuf b s
  | .crcAppend => Sys2Proof.Machine.execCrcAppend s
  | .crcCheck => Sys2Proof.Machine.execCrcCheck s
  | .cucVal => Sys2Proof.Machine.execCucVal s
  | .cucPenc => Sys2Proof.Machine.execCucPenc s
  | .cucPdec => Sys2Proof.Machine.execCucPdec s
  | .cucEnc => Sys2Proof.Machine.execCucEnc s
  | .cucDec => Sys2Proof.Machine.execCucDec s
  | .cucFromdt => Sys2Proof.Machine.execCucFromdt s
  | .cucTofix => Sys2Proof.Machine.execCucTofix s
  | .spVal => Sys2Proof.Machine.execSpVal s
  | .spPack => Sys2Proof.Machine.execSpPack s
  | .spParse => Sys2Proof.Machine.execSpParse s
  | .tcVal => Sys2Proof.Machine.execTcVal s
  | .tcPack => Sys2Proof.Machine.execTcPack s
  | .tcParse => Sys2Proof.Machine.execTcParse s
  | .tcAck m => Sys2Proof.Machine.execTcAck m s
  | .tcReqid => Sys2Proof.Machine.execTcReqid s
  | .tmVal => Sys2Proof.Machine.execTmVal s
  | .tmPack => Sys2Proof.Machine.execTmPack s
  | .tmParse => Sys2Proof.Machine.execTmParse s

end Sys2Proof.Machine
end

