-- ==== Sys2Proof/Machine/Port.lean ====
section
/-! DEFINITION. The host port: what one host transaction does (10_state.md R22 to R24, R45, 20_memory.md
R67, 30_encoding.md R87, R88, 70_reset_and_hazards.md R270 to R272). -/

namespace Sys2Proof.Machine

/-- A command word written to CMD: the operation it encodes, or E_ILLEGAL, which changes nothing but the
error record (30_encoding.md R88). -/
def command (w : CmdWord) (s : State) : Result :=
  match decode w with
  | .ok i => exec i s
  | .error _ => .next (s.raise w (.illegal w))

/-- `RegRead(n)`: the register's value, 0 for a number the table does not list (10_state.md R23). -/
def regRead (n : Nat) (s : State) : Nat :=
  match Reg.ofNumber n with
  | some r => (s.regs.get r).toNat
  | none => 0

/-- `RegWrite(n, v)` (10_state.md R22 to R24): ignored for a result register and for a number the table
does not list; a write to CMD starts the operation. A value that does not fit the register is the
host's breach of R23 (log entry 4). -/
def regWrite (n v : Nat) (s : State) : Result :=
  match Reg.ofNumber n with
  | none => .next s
  | some r =>
    match r.access with
    | .readOnly => .next s
    | .command => if v < 2 ^ 16 then command (BitVec.ofNat 16 v) s else .fault (.valueTooWide n)
    | .readWrite =>
      if v < 2 ^ r.width then .next { s with regs := s.regs.set r (BitVec.ofNat r.width v) }
      else .fault (.valueTooWide n)

/-- `BufRead(buf, i)`: 0 at or beyond the capacity (10_state.md R45). -/
def bufRead (b : BufSel) (i : Nat) (s : State) : Nat :=
  if i < s.capacity b then (s.byteAt b i).toNat else 0

/-- `BufWrite(buf, i, v)`: ignored at or beyond the capacity (10_state.md R45). -/
def bufWrite (b : BufSel) (i : Nat) (v : Byte) (s : State) : State :=
  if i < s.capacity b then s.writeByte b i v else s

/-- A hardware reset (70_reset_and_hazards.md R271, R272): every register at its reset value, every
buffer byte unspecified again. The parameters and the host's own transactions are not the CORE's state. -/
def hardReset (s : State) : State :=
  { s with regs := Regs.reset, pkt := [], dat := [], resets := s.resets + 1 }

/-- The state with a value returned to the host. -/
def State.answer (s : State) (v : Nat) : State := { s with reply := some v }

/-- One event at the port. -/
def hostEvent (e : HostEvent) (s : State) : Result :=
  match e with
  | .regRead n => .next (s.answer (regRead n s))
  | .regWrite n v => regWrite n v s
  | .bufRead b i => .next (s.answer (bufRead b i s))
  | .bufWrite b i v => .next (bufWrite b i v s)
  | .hardReset => .next (hardReset s)

/-- The next pending host transaction takes place; with none pending, the CORE "waits for the first host
transaction" and "never acts on its own" (70_reset_and_hazards.md R270, 00_scope.md R6). -/
def nextTransaction (s : State) : Result :=
  match s.pending with
  | [] => .next s
  | e :: rest => hostEvent e { s with pending := rest }

/-- The state with the host's write of a command word as the transaction to take place next, which is
how an instruction reaches the CORE (20_memory.md R69). -/
def deliver (s : State) (w : Nat) : State := { s with pending := .regWrite 0 w :: s.pending }

end Sys2Proof.Machine
end

