-- ==== Sys2Proof/Machine/Step.lean ====
section
/-! DEFINITION. One step: one host transaction, the unit of behaviour of 00_scope.md R8. -/

namespace Sys2Proof.Machine

/-- One step of the machine (Port.lean says what it does). -/
def step (s : State) : Host.Outcome State Fault Refusal := nextTransaction s

/-- The state in which the host's next transaction writes command word `w` to CMD. -/
def State.withFetchWord (s : State) (_nbits w : Nat) : State := deliver s w

end Sys2Proof.Machine
end

