-- ==== Sys2Proof/Safety.lean ====
section
/-! DEFINITION. The terms claims are made in: what a transaction keeps, how a command ended, and the
invariant of every run. -/

namespace Sys2Proof.Machine

/-- What is no state of the CORE is the same: the parameters, the host's transactions, the value last
returned to the host, the number of hardware resets. -/
def SameWorld (s t : State) : Prop :=
  t.params = s.params ∧ t.pending = s.pending ∧ t.reply = s.reply ∧ t.resets = s.resets

/-- Every register outside `rs`, every byte of every buffer outside `bs`, and the world are the same. -/
def Keeps (rs : List Reg) (bs : List BufSel) (s t : State) : Prop :=
  (∀ r, r ∉ rs → t.regs.get r = s.regs.get r)
    ∧ (∀ b, b ∉ bs → ∀ i, t.byteAt b i = s.byteAt b i)
    ∧ SameWorld s t

/-- The bytes of a buffer at and beyond index `n` are the same (10_state.md R45). -/
def KeepsFrom (b : BufSel) (n : Nat) (s t : State) : Prop := ∀ i, n ≤ i → t.byteAt b i = s.byteAt b i

/-- The opcode of a command word, bits 15:8 (30_encoding.md R80). -/
def CmdOp (w : CmdWord) : BitVec 8 := w.extractLsb' 8 8

/-- The record of completion: `STATUS <- w[15:8] << 8`, `ERRINFO <- 0`, CMD holds `w` (60_exceptions.md
R245). -/
def Completed (w : CmdWord) (t : State) : Prop :=
  t.regs.cmd = w ∧ t.regs.status = CmdOp w ++ 0#8 ∧ t.regs.errinfo = 0

/-- The record of a raise: `STATUS <- w[15:8] << 8 | 1 << 4 | code`, `ERRLOG <- ERRLOG | (1 << code)`,
`ERRINFO <- info`, CMD holds `w` (60_exceptions.md R244), with the numbers of R241 and R242. -/
def Raised (w : CmdWord) (code info : Nat) (s t : State) : Prop :=
  t.regs.cmd = w
    ∧ t.regs.status = CmdOp w ++ 0#3 ++ 1#1 ++ BitVec.ofNat 4 code
    ∧ t.regs.errlog = s.regs.errlog ||| BitVec.ofNat 16 (2 ^ code)
    ∧ t.regs.errinfo = BitVec.ofNat 32 info

/-- A raise that writes no VFAIL: the record, and nothing else of the state changes (60_exceptions.md
R244). -/
def RaisesPlainly (w : CmdWord) (code info : Nat) (s t : State) : Prop :=
  Raised w code info s t ∧ Keeps [.cmd, .status, .errlog, .errinfo] [] s t

/-- A raise of an operation that writes VFAIL first: the record, VFAIL, and nothing else of the state
changes (60_exceptions.md R244). -/
def RaisesWithMask (w : CmdWord) (code info : Nat) (m : Mask) (s t : State) : Prop :=
  Raised w code info s t ∧ t.regs.vfail = m ∧ Keeps [.cmd, .status, .errlog, .errinfo, .vfail] [] s t

/-- STATUS.CODE (10_state.md R25). -/
def errorCode (t : State) : Nat := (t.regs.status.extractLsb' 0 4).toNat

/-- The reset column of 10_state.md R47. -/
def resetValue : Reg → Nat
  | .seqf => 3
  | .crc => 0xFFFF
  | .cucBasic | .cucFrac => 0xFF
  | _ => 0

/-- What holds in every state of a run (the result registers hold only what an operation can put there,
and the buffers keep their form). It rules out states that no run reaches. -/
structure State.Inv (s : State) : Prop where
  /-- 00_scope.md R9, R17, log entry 2. -/
  params : s.params.ok = true
  pktForm : s.pkt.wf
  datForm : s.dat.wf
  /-- 10_state.md R45. -/
  pktWithin : s.pkt.within s.params.pktCap
  datWithin : s.dat.within s.params.datCap
  /-- "Bit 0 and bits 9 to 15 are always 0" (10_state.md R26). -/
  errlogBits : s.regs.errlog &&& 0xFE01 = 0
  /-- STATUS.OP is the opcode in CMD (10_state.md R24, R25, 46_system.md R233). -/
  statusOp : s.regs.status.extractLsb' 8 8 = s.regs.cmd.extractLsb' 8 8
  /-- "BUSY, always 0", "`STATUS[7:6]` = 0" (10_state.md R25). -/
  statusZero : s.regs.status.extractLsb' 5 3 = 0
  /-- "ERR, equal to (CODE != 0)" (10_state.md R25). -/
  statusErr : s.regs.status.getLsbD 4 = (s.regs.status.extractLsb' 0 4 != 0)
  /-- "Codes 9 to 15 are never produced" (60_exceptions.md R241). -/
  statusCode : errorCode s ≤ 8
  /-- ERRLOG remembers the error STATUS tells of (10_state.md R26). -/
  statusLogged : errorCode s ≠ 0 → s.regs.errlog.getLsbD (errorCode s) = true
  /-- "An operation that completes without error writes 0" to ERRINFO (10_state.md R27). -/
  infoZero : errorCode s = 0 → s.regs.errinfo = 0
  /-- RESULT is a boolean answer (10_state.md R28). -/
  resultBool : s.regs.result.toNat ≤ 1
  /-- "Bits 27 to 31 are always 0" (10_state.md R29, 45_validators.md R211). -/
  vfailBits : s.regs.vfail &&& 0xF8000000 = 0
  /-- "1 or 2, the number of P-field octets, 0 after reset" (10_state.md R43). -/
  pfLenRange : s.regs.pfLen.toNat ≤ 2
  /-- "(0 to 19)" (10_state.md R43). -/
  usedRange : s.regs.cucUsed.toNat ≤ 19
  /-- FIX_FBITS is eight times a legal fraction width (41_cuc.md R144). -/
  fbitsRange : s.regs.fixFbits.toNat ≤ 80
  /-- EL_SUB is a remainder modulo DT_DEN (41_cuc.md R142). -/
  elSubRange : s.regs.elSub.toNat < s.params.dtDen

/-! ### The command words (30_encoding.md) -/

/-- What a format allows in bits 7:0 of a command word (30_encoding.md R81 to R84). -/
inductive ImmFormat where
  /-- Format N: 0 only. -/
  | none
  /-- Format I8: any byte. -/
  | byte
  /-- Format B: 0 or 1. -/
  | buffer
  /-- Format A: a one-hot mask of four bits. -/
  | ackFlag
  deriving DecidableEq, Repr

/-- The immediates of a format. -/
def ImmFormat.allows : ImmFormat → Nat → Prop
  | .none, v => v = 0
  | .byte, v => v < 256
  | .buffer, v => v = 0 ∨ v = 1
  | .ackFlag, v => v = 1 ∨ v = 2 ∨ v = 4 ∨ v = 8

/-- The opcode map: OPC and format of each of the 26 operations (30_encoding.md R86). -/
def opcodeMap : List (Nat × ImmFormat) :=
  [(0x00, .none), (0x01, .none), (0x02, .none), (0x10, .none), (0x11, .byte), (0x12, .buffer),
    (0x13, .none), (0x14, .none), (0x20, .none), (0x21, .none), (0x22, .none), (0x23, .none),
    (0x24, .none), (0x25, .none), (0x26, .none), (0x30, .none), (0x31, .none), (0x32, .none),
    (0x40, .none), (0x41, .none), (0x42, .none), (0x43, .ackFlag), (0x44, .none), (0x50, .none),
    (0x51, .none), (0x52, .none)]

/-- A command word is legal (30_encoding.md R87). -/
def LegalWord (w : CmdWord) : Prop :=
  ∃ row ∈ opcodeMap, (CmdOp w).toNat = row.1 ∧ row.2.allows (w.extractLsb' 0 8).toNat

/-! ### When an operation completes, in the spec's own terms -/

/-- Every header operand fits its field (45_validators.md R212); `full` when TYPE and SHF are read. -/
def HeaderFits (full : Bool) (r : Regs) : Prop :=
  r.ver.toNat ≤ 7
    ∧ (full = true → r.ptype.toNat ≤ 1 ∧ r.shf.toNat ≤ 1)
    ∧ r.apid.toNat ≤ 2047 ∧ r.seqf.toNat ≤ 3 ∧ r.seqc.toNat ≤ 16383

/-- A payload of `pl` bytes makes a packet the length field and the buffers can hold (45_validators.md
R213). -/
def LengthFits (s : State) (pl : Nat) : Prop :=
  1 ≤ pl + s.regs.pecLen ∧ pl + s.regs.pecLen ≤ 65536
    ∧ s.regs.datLen.toNat ≤ s.params.datCap ∧ 6 + (pl + s.regs.pecLen) ≤ s.params.pktCap

/-- An optional field's width is legal, and its value fits when the field is present (45_validators.md
R211). -/
def OptFits (w v : Nat) : Prop := w ≤ 8 ∧ (1 ≤ w → v < 2 ^ (8 * w))

/-- The TC secondary header operands fit (45_validators.md R219). -/
def TcFits (r : Regs) : Prop :=
  r.pusv.toNat ≤ 15 ∧ r.ack.toNat ≤ 15 ∧ r.svc.toNat ≤ 255 ∧ r.sub.toNat ≤ 255
    ∧ OptFits r.tcSrcW.toNat r.src.toNat

/-- The TM secondary header operands other than the time fit (45_validators.md R220). -/
def TmFits (r : Regs) : Prop :=
  r.pusv.toNat ≤ 15 ∧ r.stat.toNat ≤ 15 ∧ r.svc.toNat ≤ 255 ∧ r.sub.toNat ≤ 255
    ∧ OptFits r.tmCntW.toNat r.cnt.toNat ∧ OptFits r.tmDstW.toNat r.dst.toNat

/-- The CUC unit lengths are legal (41_cuc.md R121). -/
def FormatFits (r : Regs) : Prop :=
  1 ≤ r.cucBasic.toNat ∧ r.cucBasic.toNat ≤ 7 ∧ r.cucFrac.toNat ≤ 10

/-- Format and values of the CUC registers fit, and CUC_TCID where a P-field is produced (41_cuc.md
R125). -/
def TimeFits (needTcid : Bool) (r : Regs) : Prop :=
  FormatFits r ∧ (needTcid = true → r.cucTcid.toNat ≤ 7)
    ∧ r.cucSec.toNat < 2 ^ (8 * r.cucBasic.toNat) ∧ r.cucFrc.toNat < 2 ^ (8 * r.cucFrac.toNat)

/-- The rows of 45_validators.md R211: the check of bit `k` fails (or the finding of bit 24 holds) for a
payload of `pl` bytes. `full` is `hdr_checks`'s, `pfield` says that a P-field is to be produced. -/
def checkFails (s : State) (pl : Nat) (pfield : Bool) (k : Nat) : Prop :=
  match k with
  | 0 => 7 < s.regs.ver.toNat
  | 1 => 1 < s.regs.ptype.toNat
  | 2 => 1 < s.regs.shf.toNat
  | 3 => 2047 < s.regs.apid.toNat
  | 4 => 3 < s.regs.seqf.toNat
  | 5 => 16383 < s.regs.seqc.toNat
  | 6 => pl + s.regs.pecLen < 1 ∨ 65536 < pl + s.regs.pecLen
  | 7 => 15 < s.regs.pusv.toNat
  | 8 => 15 < s.regs.ack.toNat
  | 9 => 15 < s.regs.stat.toNat
  | 10 => 255 < s.regs.svc.toNat
  | 11 => 255 < s.regs.sub.toNat
  | 12 => 8 < s.regs.tcSrcW.toNat
  | 13 => 1 ≤ s.regs.tcSrcW.toNat ∧ s.regs.tcSrcW.toNat ≤ 8
            ∧ 2 ^ (8 * s.regs.tcSrcW.toNat) ≤ s.regs.src.toNat
  | 14 => 8 < s.regs.tmCntW.toNat
  | 15 => 1 ≤ s.regs.tmCntW.toNat ∧ s.regs.tmCntW.toNat ≤ 8
            ∧ 2 ^ (8 * s.regs.tmCntW.toNat) ≤ s.regs.cnt.toNat
  | 16 => 8 < s.regs.tmDstW.toNat
  | 17 => 1 ≤ s.regs.tmDstW.toNat ∧ s.regs.tmDstW.toNat ≤ 8
            ∧ 2 ^ (8 * s.regs.tmDstW.toNat) ≤ s.regs.dst.toNat
  | 18 => ¬FormatFits s.regs
  | 19 => pfield = true ∧ 7 < s.regs.cucTcid.toNat
  | 20 => FormatFits s.regs ∧ 2 ^ (8 * s.regs.cucBasic.toNat) - 1 < s.regs.cucSec.toNat
  | 21 => FormatFits s.regs ∧ 2 ^ (8 * s.regs.cucFrac.toNat) - 1 < s.regs.cucFrc.toNat
  | 22 => s.params.datCap < s.regs.datLen.toNat
            ∨ s.params.pktCap < 6 + (pl + s.regs.pecLen)
  | 23 => s.params.dtDen ≤ s.regs.dtSub.toNat ∨ s.params.dtDen ≤ s.regs.epSub.toNat
  | 24 => s.regs.pusv.toNat ≠ 1 ∧ s.regs.pusv.toNat ≠ 2
  | _ => False

/-- The checks of the SP operations ("used by" column of 45_validators.md R211). -/
def spChecks : List Nat := [0, 1, 2, 3, 4, 5, 6, 22]

/-- The checks of the TC operations. -/
def tcCheckList : List Nat := [0, 3, 4, 5, 6, 7, 8, 10, 11, 12, 13, 22, 24]

/-- The checks of the TM operations. -/
def tmCheckList : List Nat := [0, 3, 4, 5, 6, 7, 9, 10, 11, 14, 15, 16, 17, 18, 19, 20, 21, 22, 24]

/-- The checks of the CUC operations that use the value registers. -/
def cucCheckList : List Nat := [18, 19, 20, 21]

/-- A mask shows exactly the checks of `ks` that fail. -/
def ShowsChecks (m : Mask) (ks : List Nat) (s : State) (pl : Nat) (pfield : Bool) : Prop :=
  ∀ k, m.getLsbD k = true ↔ k ∈ ks ∧ checkFails s pl pfield k

/-- Some required check of `ks` fails (bits 0 to 23, 45_validators.md R211). -/
def SomeRequiredFails (ks : List Nat) (s : State) (pl : Nat) (pfield : Bool) : Prop :=
  ∃ k ∈ ks, k ≤ 23 ∧ checkFails s pl pfield k

/-- What a packet VAL operation does in every state: VFAIL shows the checks, RESULT says whether every
required one passed, nothing else is written (45_validators.md R216 to R218). -/
def Reports (i : Instr) (ks : List Nat) (s : State) (pl : Nat) (pfield : Bool) : Prop :=
  ∃ t, exec i s = .next t ∧ ShowsChecks t.regs.vfail ks s pl pfield
    ∧ (SomeRequiredFails ks s pl pfield → t.regs.result = 0)
    ∧ (¬SomeRequiredFails ks s pl pfield → t.regs.result = 1)
    ∧ Completed (encode i) t ∧ Keeps [.cmd, .status, .errinfo, .vfail, .result] [] s t

/-- What a PACK operation does when a required check fails: at most one raise, by fixed priority
(45_validators.md R215). -/
def PackRefuses (i : Instr) (ks : List Nat) (s : State) (pl : Nat) (pfield : Bool) : Prop :=
  SomeRequiredFails ks s pl pfield →
    ∃ t m, exec i s = .next t ∧ ShowsChecks m ks s pl pfield
      ∧ (18 ∈ ks ∧ checkFails s pl pfield 18 → RaisesWithMask (encode i) 3 0 m s t)
      ∧ (¬(18 ∈ ks ∧ checkFails s pl pfield 18) →
          (∃ k ∈ ks, k ≤ 21 ∧ checkFails s pl pfield k) → RaisesWithMask (encode i) 2 m.toNat m s t)
      ∧ ((∀ k ∈ ks, k ≤ 21 → ¬checkFails s pl pfield k) →
          RaisesWithMask (encode i) 8 (if s.params.datCap < s.regs.datLen.toNat then 1 else 0) m s t)

/-- The packet data length field of the packet in PKT, bytes 4 and 5 (42_space_packet.md R151). -/
def declared (s : State) : Nat := (s.byteAt .pkt 4).toNat * 256 + (s.byteAt .pkt 5).toNat

/-- The payload length of the packet in PKT (42_space_packet.md R156). -/
def payloadLen (s : State) : Nat := declared s + 1 - s.regs.pecLen

/-- The payload of the packet in PKT, `PKT[6..6+pl)` (42_space_packet.md R156). -/
def payload (s : State) : Bytes := s.slice .pkt 6 (payloadLen s)

/-- The error code and ERRINFO of a packet in PKT that cannot be split, in the order of the tests
(42_space_packet.md R156, 60_exceptions.md R250 item 4). -/
def frameError (s : State) : Option (Nat × Nat) :=
  if s.params.pktCap < s.regs.pktLen.toNat then some (8, 0)
  else if s.regs.pktLen.toNat < 6 then some (1, 1)
  else if s.regs.pktLen.toNat < 6 + declared s + 1 then some (1, 2)
  else if 6 + declared s + 1 < s.regs.pktLen.toNat then some (4, 6 + declared s + 1)
  else if s.regs.pec = true ∧ declared s + 1 < 2 then some (1, 3)
  else none

/-- The registers hold the header fields of the packet in PKT, and its PEC trailer
(42_space_packet.md R151, R157). -/
def FrameParsed (s t : State) : Prop :=
  t.regs.ver.toNat = (s.byteAt .pkt 0).toNat / 32
    ∧ t.regs.ptype.toNat = (s.byteAt .pkt 0).toNat / 16 % 2
    ∧ t.regs.shf.toNat = (s.byteAt .pkt 0).toNat / 8 % 2
    ∧ t.regs.apid.toNat = (s.byteAt .pkt 0).toNat % 8 * 256 + (s.byteAt .pkt 1).toNat
    ∧ t.regs.seqf.toNat = (s.byteAt .pkt 2).toNat / 64
    ∧ t.regs.seqc.toNat = (s.byteAt .pkt 2).toNat % 64 * 256 + (s.byteAt .pkt 3).toNat
    ∧ t.regs.dlen.toNat = declared s
    ∧ (s.regs.pec = true →
        t.regs.pecRx.toNat =
          (s.byteAt .pkt (6 + payloadLen s)).toNat * 256
            + (s.byteAt .pkt (6 + payloadLen s + 1)).toNat)
    ∧ (s.regs.pec = false → t.regs.pecRx = 0)

/-- DAT holds `data`, DAT_LEN its length, the bytes beyond are the old ones (20_memory.md R71). -/
def DataIs (s t : State) (data : Bytes) : Prop :=
  t.valid .dat = data ∧ t.regs.datLen.toNat = data.length ∧ KeepsFrom .dat data.length s t

/-! ### The wire formats, as the tables of the spec give them -/

/-- The six bytes of a primary header (42_space_packet.md R151). -/
def headerBytes (ver typ shf apid seqf seqc dl : Nat) : Bytes :=
  [ver * 32 + typ * 16 + shf * 8 + apid / 256, apid % 256, seqf * 64 + seqc / 256, seqc % 256,
    dl / 256, dl % 256].map (BitVec.ofNat 8)

/-- The three fixed bytes of a secondary header (43_pus_tc.md R172, 44_pus_tm.md R191). -/
def sechdrBytes (pusv low svc sub : Nat) : Bytes := [pusv * 16 + low, svc, sub].map (BitVec.ofNat 8)

/-- The octets of a P-field (41_cuc.md R122, R123). -/
def pfieldBytes (basic frac tcid : Nat) : Bytes :=
  if 4 < basic ∨ 3 < frac then
    [128 + tcid * 16 + min (basic - 1) 3 * 4 + min frac 3,
      (basic - 1 - min (basic - 1) 3) * 32 + (frac - min frac 3) * 4].map (BitVec.ofNat 8)
  else [BitVec.ofNat 8 (tcid * 16 + (basic - 1) * 4 + frac)]

/-- The time field of the CUC registers (41_cuc.md R126). -/
def timeBytes (r : Regs) : Bytes :=
  (if r.cucHasp = 1 then pfieldBytes r.cucBasic.toNat r.cucFrac.toNat r.cucTcid.toNat else [])
    ++ be r.cucBasic.toNat r.cucSec.toNat ++ be r.cucFrac.toNat r.cucFrc.toNat

/-- PKT holds a header, a payload and, when HAS_PEC is set, the PEC of both; PKT_LEN and DLEN say so; the
bytes beyond are the old ones (42_space_packet.md R150 to R155). -/
def PacketBuilt (s t : State) (typ shf : Nat) (payload : Bytes) : Prop :=
  let h :=
    headerBytes s.regs.ver.toNat typ shf s.regs.apid.toNat s.regs.seqf.toNat s.regs.seqc.toNat
      (payload.length + s.regs.pecLen - 1)
  t.valid .pkt =
      h ++ payload ++ (if s.regs.hasPec = 1 then be 2 (crc16 (h ++ payload)).toNat else [])
    ∧ t.regs.pktLen.toNat = 6 + payload.length + s.regs.pecLen
    ∧ t.regs.dlen.toNat = payload.length + s.regs.pecLen - 1
    ∧ KeepsFrom .pkt (6 + payload.length + s.regs.pecLen) s t

/-- The payload of the TC registers and DAT (43_pus_tc.md R172). -/
def tcBytes (s : State) : Bytes :=
  sechdrBytes s.regs.pusv.toNat s.regs.ack.toNat s.regs.svc.toNat s.regs.sub.toNat
    ++ be s.regs.tcSrcW.toNat s.regs.src.toNat ++ s.valid .dat

/-- The payload of the TM registers and DAT (44_pus_tm.md R191). -/
def tmBytes (s : State) : Bytes :=
  sechdrBytes s.regs.pusv.toNat s.regs.stat.toNat s.regs.svc.toNat s.regs.sub.toNat
    ++ be s.regs.tmCntW.toNat s.regs.cnt.toNat ++ be s.regs.tmDstW.toNat s.regs.dst.toNat
    ++ timeBytes s.regs ++ s.valid .dat

/-- A P-field octet of a byte sequence, as a number. -/
def octet (b : Bytes) (k : Nat) : Nat := (b.getD k 0).toNat

/-- The number of P-field octets a sequence starts with (41_cuc.md R122: EXT is bit 7 of the first). -/
def wireOctets (b : Bytes) : Nat := if 128 ≤ octet b 0 then 2 else 1

/-- The basic unit length a P-field announces (41_cuc.md R124). -/
def wireBasic (b : Bytes) : Nat :=
  octet b 0 / 4 % 4 + 1 + (if 128 ≤ octet b 0 then octet b 1 / 32 % 4 else 0)

/-- The fractional unit length a P-field announces (41_cuc.md R124). -/
def wireFrac (b : Bytes) : Nat :=
  octet b 0 % 4 + (if 128 ≤ octet b 0 then octet b 1 / 4 % 8 else 0)

/-- The time-code identifier of a P-field (41_cuc.md R122). -/
def wireTcid (b : Bytes) : Nat := octet b 0 / 16 % 8

/-- Where the seconds of a time field start: after the P-field when CUC_HASP is set (41_cuc.md R128). -/
def timeOffset (r : Regs) (b : Bytes) : Nat := if r.cucHasp = 1 then wireOctets b else 0

/-- The basic unit length of a time field: the P-field's, else CUC_BASIC (41_cuc.md R128). -/
def timeBasic (r : Regs) (b : Bytes) : Nat :=
  if r.cucHasp = 1 then wireBasic b else r.cucBasic.toNat

/-- The fractional unit length of a time field: the P-field's, else CUC_FRAC (41_cuc.md R128). -/
def timeFrac (r : Regs) (b : Bytes) : Nat := if r.cucHasp = 1 then wireFrac b else r.cucFrac.toNat

/-- The length of a time field (41_cuc.md R128). -/
def timeUsed (r : Regs) (b : Bytes) : Nat := timeOffset r b + timeBasic r b + timeFrac r b

/-- The error code and ERRINFO of a P-field that cannot be read (41_cuc.md R124). -/
def pfieldError (b : Bytes) : Option (Nat × Nat) :=
  if b.length < 2 then some (1, 6)
  else if 128 ≤ octet b 0 ∧ 128 ≤ octet b 1 then some (3, 1)
  else none

/-- The error code and ERRINFO of a time field that cannot be read, in the order of the tests (41_cuc.md
R128, 60_exceptions.md R250 item 5). -/
def timeError (r : Regs) (b : Bytes) : Option (Nat × Nat) :=
  if r.cucHasp = 1 ∧ (pfieldError b).isSome then pfieldError b
  else if r.cucHasp = 0 ∧ (r.cucBasic = 0xFF ∨ r.cucFrac = 0xFF) then some (5, 0)
  else if r.cucHasp = 0 ∧ ¬(1 ≤ r.cucBasic.toNat ∧ r.cucBasic.toNat ≤ 7 ∧ r.cucFrac.toNat ≤ 10) then
    some (3, 0)
  else if b.length < timeOffset r b + timeBasic r b then some (1, 7)
  else if b.length < timeUsed r b then some (1, 8)
  else none

/-- The registers hold the time of a time field (41_cuc.md R138, 44_pus_tm.md R197). -/
def TimeParsed (b : Bytes) (s t : State) : Prop :=
  t.regs.cucSec.toNat = beVal ((b.drop (timeOffset s.regs b)).take (timeBasic s.regs b))
    ∧ t.regs.cucFrc.toNat =
        beVal ((b.drop (timeOffset s.regs b + timeBasic s.regs b)).take (timeFrac s.regs b))
    ∧ t.regs.cucUsed.toNat = timeUsed s.regs b
    ∧ t.regs.cucBasic.toNat = timeBasic s.regs b
    ∧ t.regs.cucFrac.toNat = timeFrac s.regs b
    ∧ (s.regs.cucHasp = 1 → t.regs.cucTcid.toNat = wireTcid b)
    ∧ (s.regs.cucHasp = 0 → t.regs.cucTcid = s.regs.cucTcid)

/-- The error code and ERRINFO of SP.PARSE (42_space_packet.md R157). -/
def spParseError (s : State) : Option (Nat × Nat) :=
  if (frameError s).isSome then frameError s
  else if s.params.datCap < payloadLen s then some (8, 1)
  else none

/-- The error code and ERRINFO of TC.PARSE after its width check (43_pus_tc.md R178). -/
def tcParseError (s : State) : Option (Nat × Nat) :=
  if (frameError s).isSome then frameError s
  else if payloadLen s < 3 then some (1, 4)
  else if payloadLen s < 3 + s.regs.tcSrcW.toNat then some (1, 5)
  else if s.params.datCap < payloadLen s - 3 - s.regs.tcSrcW.toNat then some (8, 1)
  else none

/-- Where the time field of a TM payload starts (44_pus_tm.md R191). -/
def tmTimeOffset (s : State) : Nat := 3 + s.regs.tmCntW.toNat + s.regs.tmDstW.toNat

/-- The bytes of a TM payload from the time field on (44_pus_tm.md R197). -/
def tmTail (s : State) : Bytes := (payload s).drop (tmTimeOffset s)

/-- The error code and ERRINFO of TM.PARSE after its width checks (44_pus_tm.md R197). -/
def tmParseError (s : State) : Option (Nat × Nat) :=
  if (frameError s).isSome then frameError s
  else if payloadLen s < 3 then some (1, 4)
  else if payloadLen s < tmTimeOffset s then some (1, 5)
  else if (timeError s.regs (tmTail s)).isSome then timeError s.regs (tmTail s)
  else if s.params.datCap < payloadLen s - tmTimeOffset s - timeUsed s.regs (tmTail s) then some (8, 1)
  else none

/-- The registers every PARSE operation writes, with the record of completion. -/
def frameRegs : List Reg :=
  [.ver, .ptype, .shf, .apid, .seqf, .seqc, .dlen, .pecRx, .datLen, .vfail, .cmd, .status, .errinfo]

/-- The advisory bits a completed TC.PARSE or TM.PARSE leaves in VFAIL, `want` being the packet type the
operation is for (45_validators.md R211, R214). -/
def AdvisoryIs (t : State) (want : Nat) : Prop :=
  ∀ k, t.regs.vfail.getLsbD k = true ↔
    (k = 24 ∧ t.regs.pusv.toNat ≠ 1 ∧ t.regs.pusv.toNat ≠ 2)
      ∨ (k = 25 ∧ t.regs.ptype.toNat ≠ want) ∨ (k = 26 ∧ t.regs.shf.toNat = 0)

/-- Which error kinds an operation can raise, with the ERRINFO values (60_exceptions.md R243). -/
def mayRaise (i : Instr) (code info : Nat) : Prop :=
  match i with
  | .sysNop | .sysClrerr | .sysReset | .crcInit | .crcByte _ | .cucVal | .spVal | .tcVal | .tmVal
  | .tcAck _ => False
  | .crcBuf _ => code = 8 ∧ info ∈ [0, 1]
  | .crcAppend => code = 8 ∧ info = 0
  | .crcCheck => (code = 1 ∧ info = 3) ∨ (code = 8 ∧ info = 0)
  | .cucPenc => code = 2 ∨ (code = 3 ∧ info = 0)
  | .cucPdec => (code = 1 ∧ info = 6) ∨ (code = 3 ∧ info = 1) ∨ (code = 8 ∧ info = 1)
  | .cucEnc => code = 2 ∨ (code = 3 ∧ info = 0) ∨ (code = 8 ∧ info = 1)
  | .cucDec => (code = 1 ∧ info ∈ [6, 7, 8]) ∨ (code = 3 ∧ info ∈ [0, 1]) ∨ code = 5
      ∨ (code = 8 ∧ info = 1)
  | .cucFromdt => code = 2 ∨ (code = 3 ∧ info = 0) ∨ code = 6
  | .cucTofix => code = 2 ∨ (code = 3 ∧ info = 0)
  | .spPack | .tcPack => code = 2 ∨ (code = 8 ∧ info ∈ [0, 1])
  | .spParse => (code = 1 ∧ info ∈ [1, 2, 3]) ∨ code = 4 ∨ (code = 8 ∧ info ∈ [0, 1])
  | .tcParse => (code = 1 ∧ info ∈ [1, 2, 3, 4, 5]) ∨ (code = 2 ∧ info = 0x1000) ∨ code = 4
      ∨ (code = 8 ∧ info ∈ [0, 1])
  | .tcReqid => code = 2
  | .tmPack => code = 2 ∨ (code = 3 ∧ info = 0) ∨ (code = 8 ∧ info ∈ [0, 1])
  | .tmParse => (code = 1 ∧ info ∈ [1, 2, 3, 4, 5, 6, 7, 8])
      ∨ (code = 2 ∧ info ∈ [0x4000, 0x10000, 0x14000]) ∨ (code = 3 ∧ info ∈ [0, 1]) ∨ code = 4
      ∨ code = 5 ∨ (code = 8 ∧ info ∈ [0, 1])

/-- The registers an operation may write besides CMD, STATUS, ERRLOG and ERRINFO ("written by operations"
column of 10_state.md R47). SYS.RESET writes every register. -/
def mayWrite : Instr → List Reg
  | .sysNop | .sysClrerr => []
  | .sysReset =>
    [.result, .vfail, .hasPec, .tcSrcW, .tmCntW, .tmDstW, .ver, .ptype, .shf, .apid, .seqf, .seqc,
      .dlen, .pusv, .ack, .stat, .svc, .sub, .src, .cnt, .dst, .reqid, .pecRx, .crc, .pktLen, .datLen,
      .cucBasic, .cucFrac, .cucHasp, .cucTcid, .cucSec, .cucFrc, .cucUsed, .pfield, .pfLen, .fix,
      .fixFbits, .dtSec, .dtSub, .epSec, .epSub, .elSec, .elSub]
  | .crcInit | .crcByte _ | .crcBuf _ => [.crc]
  | .crcAppend => [.crc, .pktLen]
  | .crcCheck => [.crc, .pecRx, .result]
  | .cucVal | .spVal | .tcVal | .tmVal => [.vfail, .result]
  | .cucPenc => [.vfail, .pfield, .pfLen, .cucUsed]
  | .cucPdec => [.vfail, .cucBasic, .cucFrac, .cucTcid, .pfield, .pfLen, .cucUsed]
  | .cucEnc => [.vfail, .datLen, .cucUsed]
  | .cucDec => [.vfail, .cucBasic, .cucFrac, .cucTcid, .cucSec, .cucFrc, .cucUsed]
  | .cucFromdt => [.vfail, .cucSec, .cucFrc, .elSec, .elSub]
  | .cucTofix => [.vfail, .fix, .fixFbits]
  | .spPack => [.vfail, .pktLen, .dlen]
  | .spParse => [.vfail, .ver, .ptype, .shf, .apid, .seqf, .seqc, .dlen, .pecRx, .datLen]
  | .tcPack | .tmPack => [.vfail, .pktLen, .dlen, .ptype, .shf]
  | .tcParse =>
    [.vfail, .ver, .ptype, .shf, .apid, .seqf, .seqc, .dlen, .pecRx, .datLen, .pusv, .ack, .svc, .sub,
      .src]
  | .tcAck _ => [.result]
  | .tcReqid => [.vfail, .reqid]
  | .tmParse =>
    [.vfail, .ver, .ptype, .shf, .apid, .seqf, .seqc, .dlen, .pecRx, .datLen, .pusv, .stat, .svc, .sub,
      .cnt, .dst, .cucBasic, .cucFrac, .cucTcid, .cucSec, .cucFrc, .cucUsed]

/-- The operations that write PKT (20_memory.md R61). -/
def pktWriters : List Instr := [.spPack, .tcPack, .tmPack, .crcAppend]

/-- The operations that write DAT (20_memory.md R61). -/
def datWriters : List Instr := [.spParse, .tcParse, .tmParse, .cucEnc]

/-- PKT, its length and what a PARSE operation needs to be told of it are the same (70_reset_and_hazards.md
R280). -/
def SamePacket (s t : State) : Prop :=
  t.params = s.params ∧ t.regs.pktLen = s.regs.pktLen ∧ t.regs.hasPec = s.regs.hasPec
    ∧ ∀ i, i < s.regs.pktLen.toNat → t.byteAt .pkt i = s.byteAt .pkt i

/-- The registers of the list hold the same in both states. -/
def Agree (rs : List Reg) (s t : State) : Prop := ∀ r ∈ rs, t.regs.get r = s.regs.get r

/-- Two states an operation cannot tell apart: the same registers and parameters, and the same valid bytes
(70_reset_and_hazards.md R272). -/
def SameInputs (s t : State) : Prop :=
  t.regs = s.regs ∧ t.params = s.params
    ∧ ∀ b i, i < s.lengthOf b → t.byteAt b i = s.byteAt b i

end Sys2Proof.Machine
end

