-- ==== Sys2Proof/Certificates/Slice0/Obligations.lean ====
section
/-! DEFINITION. The statements about this machine, each from the numbered rules of the spec that its
docstring names. A log entry is a file of notes/assumptions. -/

open Sys2Proof Sys2Proof.Machine

/-! ### Reset and the invariant -/

/-- After a hardware reset, and after SYS.RESET, every register holds its reset value (10_state.md R48). -/
def Obligations.ResetRegisterValues : Prop :=
  (∀ r, (State.reset.regs.get r).toNat = resetValue r)
    ∧ (∀ s rest, s.pending = .hardReset :: rest →
        ∃ t, step s = .next t ∧ ∀ r, (t.regs.get r).toNat = resetValue r)
    ∧ (∀ s, ∃ t, exec .sysReset s = .next t ∧ ∀ r, (t.regs.get r).toNat = resetValue r)

/-- After a hardware reset every byte of both buffers is a free value, another one for every reset, for
every value of it (70_reset_and_hazards.md R272, by log entry 1); that the parameters, the transactions
still to come and the last reply are kept is the model's choice (log entry 5). -/
def Obligations.HardwareResetFreesBuffers : Prop :=
  ∀ s rest, s.pending = .hardReset :: rest →
    ∃ t, step s = .next t ∧ t.resets = s.resets + 1
      ∧ (∀ b i, t.byteAt b i = Config.freeByte (s.resets + 1) b i)
      ∧ t.params = s.params ∧ t.pending = rest ∧ t.reply = s.reply

/-- The state after reset meets the invariant (10_state.md R48, R25 to R29, R45; the canonical form of the
buffers is the model's, log entry 1, and the bounds of the parameters are log entry 2's). -/
def Obligations.ResetMeetsInvariant : Prop := State.reset.Inv

/-- Every step keeps the invariant, and changes no parameter (10_state.md R25 to R29, R43, R45; the
canonical form of the buffers is the model's, log entry 1, and the bounds of the parameters are log entry
2's). -/
def Obligations.StepKeepsInvariant : Prop :=
  ∀ s t, s.Inv → step s = .next t → t.Inv ∧ t.params = s.params

/-! ### Command words -/

/-- A word decodes to an operation exactly when it is the word of that operation and the operation is well
formed (30_encoding.md R80 to R87). -/
def Obligations.DecodeInvertsEncode : Prop :=
  ∀ w i, decode w = .ok i ↔ i.wellFormed = true ∧ encode i = w

/-- Decoding is total; the legal words are those of the opcode map with an immediate the format allows, 285
in number (30_encoding.md R87). -/
def Obligations.LegalWordsAreTheMap : Prop :=
  (∀ w, (∃ i, decode w = .ok i) ↔ LegalWord w)
    ∧ (∀ w, ¬LegalWord w → ∃ e, decode w = .error e)
    ∧ ∃ ws : List CmdWord, ws.Nodup ∧ ws.length = 285 ∧ ∀ w, w ∈ ws ↔ LegalWord w

/-- Words written out from 30_encoding.md R81 to R86 decode to their operations. -/
def Obligations.KnownWordsDecode : Prop :=
  decode 0b0000_0000_0000_0000#16 = .ok .sysNop
    ∧ decode 0b0001_0001_1010_0101#16 = .ok (.crcByte 0xA5)
    ∧ decode 0b0001_0010_0000_0001#16 = .ok (.crcBuf .dat)
    ∧ decode 0b0010_0101_0000_0000#16 = .ok .cucFromdt
    ∧ decode 0b0011_0001_0000_0000#16 = .ok .spPack
    ∧ decode 0b0100_0011_0000_1000#16 = .ok (.tcAck 0b1000)
    ∧ decode 0b0101_0010_0000_0000#16 = .ok .tmParse

/-- A host write of a command word to CMD that decodes to an operation runs that operation, on the state
without the transaction; the step adds nothing (10_state.md R24, 20_memory.md R67, R69; the queue of
transactions is the model's, log entry 3). -/
def Obligations.StepRunsDecodedOperation : Prop :=
  ∀ s rest w i, s.pending = .regWrite 0 w.toNat :: rest → decode w = .ok i →
    i.wellFormed = true ∧ step s = exec i { s with pending := rest }

/-- An illegal command word raises E_ILLEGAL and changes nothing but the error record; every unassigned
opcode is illegal (30_encoding.md R88). -/
def Obligations.IllegalWordRaises : Prop :=
  (∀ s rest w e, s.pending = .regWrite 0 w.toNat :: rest → decode w = .error e →
      ∃ t, step s = .next t ∧ RaisesPlainly w 7 w.toNat { s with pending := rest } t)
    ∧ (∀ w n, (CmdOp w).toNat = n →
        (0x03 ≤ n ∧ n ≤ 0x0F) ∨ (0x15 ≤ n ∧ n ≤ 0x1F) ∨ (0x27 ≤ n ∧ n ≤ 0x2F)
          ∨ (0x33 ≤ n ∧ n ≤ 0x3F) ∨ (0x45 ≤ n ∧ n ≤ 0x4F) ∨ (0x53 ≤ n ∧ n ≤ 0xFF) →
        ∃ e, decode w = .error e)

/-! ### The host port -/

/-- With no transaction to come, the CORE does nothing (00_scope.md R6, 70_reset_and_hazards.md R270; that
waiting is a step of its own is the model's choice, log entry 3). -/
def Obligations.IdleStepChangesNothing : Prop := ∀ s, s.pending = [] → step s = .next s

/-- A host write of a value that fits gives an operand register that value and changes nothing else; a host
read returns the current value and changes nothing; a number the table does not list is ignored on write
and reads 0 (10_state.md R23; the queue of transactions and the returned value are the model's, log entry
3). -/
def Obligations.HostRegisterAccess : Prop :=
  (∀ s rest (r : Reg) v, r.access = .readWrite → v < 2 ^ r.width →
      s.pending = .regWrite r.number v :: rest →
      ∃ t, step s = .next t ∧ (t.regs.get r).toNat = v
        ∧ Keeps [r] [] { s with pending := rest } t)
    ∧ (∀ s rest r, s.pending = .regRead r.number :: rest →
        step s = .next { s with pending := rest, reply := some (s.regs.get r).toNat })
    ∧ (∀ s rest n v, (∀ r : Reg, r.number ≠ n) → s.pending = .regWrite n v :: rest →
        step s = .next { s with pending := rest })
    ∧ (∀ s rest n, (∀ r : Reg, r.number ≠ n) → s.pending = .regRead n :: rest →
        step s = .next { s with pending := rest, reply := some 0 })

/-- A host write to a result register is ignored: no effect, no error (10_state.md R22; that this holds of a
value with more bits than the register too is the model's choice, log entry 4). -/
def Obligations.ResultRegisterWriteIgnored : Prop :=
  ∀ s rest (r : Reg) v, r.access = .readOnly → s.pending = .regWrite r.number v :: rest →
    step s = .next { s with pending := rest }

/-- THE MODEL'S CHOICE (log entry 4): a host write that R23 excludes, of a value with more bits than the
operand register or CMD has, stops the machine. -/
def Obligations.TooWideWriteStops : Prop :=
  ∀ s rest (r : Reg) v, r.access ≠ .readOnly → 2 ^ r.width ≤ v →
    s.pending = .regWrite r.number v :: rest →
    step s = .fault (.valueTooWide r.number)

/-- The host reads and writes single bytes of a buffer; at or beyond the capacity a write is ignored and a
read returns 0 (10_state.md R45). -/
def Obligations.HostBufferAccess : Prop :=
  (∀ s rest b i v, s.pending = .bufWrite b i v :: rest → i < s.capacity b →
      ∃ t, step s = .next t ∧ t.byteAt b i = v
        ∧ (∀ c j, ¬(c = b ∧ j = i) → t.byteAt c j = s.byteAt c j)
        ∧ t.regs = s.regs ∧ SameWorld { s with pending := rest } t)
    ∧ (∀ s rest b i v, s.pending = .bufWrite b i v :: rest → s.capacity b ≤ i →
        step s = .next { s with pending := rest })
    ∧ (∀ s rest b i, s.pending = .bufRead b i :: rest → i < s.capacity b →
        step s = .next { s with pending := rest, reply := some (s.byteAt b i).toNat })
    ∧ (∀ s rest b i, s.pending = .bufRead b i :: rest → s.capacity b ≤ i →
        step s = .next { s with pending := rest, reply := some 0 })

/-! ### SYS -/

/-- SYS.NOP does nothing besides the record of completion (46_system.md R231). -/
def Obligations.SysNopResult : Prop :=
  ∀ s, ∃ t, exec .sysNop s = .next t ∧ Completed 0x0000 t ∧ Keeps [.cmd, .status, .errinfo] [] s t

/-- SYS.CLRERR clears ERRLOG and changes nothing else but the record of completion (46_system.md R232). -/
def Obligations.SysClrerrResult : Prop :=
  ∀ s, ∃ t, exec .sysClrerr s = .next t ∧ t.regs.errlog = 0 ∧ Completed 0x0100 t
    ∧ Keeps [.cmd, .status, .errinfo, .errlog] [] s t

/-- SYS.RESET gives every register its reset value and changes no byte of PKT or DAT (46_system.md R233). -/
def Obligations.SysResetResult : Prop :=
  ∀ s, ∃ t, exec .sysReset s = .next t ∧ (∀ r, (t.regs.get r).toNat = resetValue r)
    ∧ (∀ b i, t.byteAt b i = s.byteAt b i) ∧ SameWorld s t

/-! ### CRC -/

/-- The table form and the table-free form of the fold are equal (40_crc.md R103, which the spec marks as
derived). -/
def Obligations.CrcTableIsSerial : Prop := ∀ c b, crcStep c b = crcStepSerial c b

/-- The empty sequence, splitting, and the residue 0 (40_crc.md R104, which the spec marks as derived). -/
def Obligations.CrcProperties : Prop :=
  crc16 [] = 0xFFFF
    ∧ (∀ c s t, crcFrom (crcFrom c s) t = crcFrom c (s ++ t))
    ∧ ∀ s, crc16 (s ++ be 2 (crc16 s).toNat) = 0

/-- CRC.INIT (40_crc.md R105). -/
def Obligations.CrcInitResult : Prop :=
  ∀ s, ∃ t, exec .crcInit s = .next t ∧ t.regs.crc = 0xFFFF ∧ Completed 0x1000 t
    ∧ Keeps [.cmd, .status, .errinfo, .crc] [] s t

/-- CRC.BYTE (40_crc.md R106), the fold in the table-free form of R103, which the spec marks as derived. -/
def Obligations.CrcByteResult : Prop :=
  ∀ s byte, ∃ t, exec (.crcByte byte) s = .next t ∧ t.regs.crc = crcStepSerial s.regs.crc byte
    ∧ Completed (0x11#8 ++ byte) t ∧ Keeps [.cmd, .status, .errinfo, .crc] [] s t

/-- CRC.BUF (40_crc.md R107). -/
def Obligations.CrcBufResult : Prop :=
  ∀ s b,
    (s.lengthOf b ≤ s.capacity b →
        ∃ t, exec (.crcBuf b) s = .next t ∧ t.regs.crc = crc16 (s.valid b)
          ∧ Completed (if b = .pkt then 0x1200 else 0x1201) t
          ∧ Keeps [.cmd, .status, .errinfo, .crc] [] s t)
      ∧ (s.capacity b < s.lengthOf b →
        ∃ t, exec (.crcBuf b) s = .next t
          ∧ RaisesPlainly (if b = .pkt then 0x1200 else 0x1201) 8 (if b = .pkt then 0 else 1) s t)

/-- CRC.APPEND (40_crc.md R108); the bytes stored are those at PKT_LEN and PKT_LEN + 1. `params.ok` bounds
PKT_CAP by what PKT_LEN can hold (log entry 2). -/
def Obligations.CrcAppendResult : Prop :=
  ∀ s, s.params.ok = true →
    (s.regs.pktLen.toNat + 2 ≤ s.params.pktCap →
        ∃ t, exec .crcAppend s = .next t ∧ t.regs.crc = crc16 (s.valid .pkt)
          ∧ (t.byteAt .pkt s.regs.pktLen.toNat).toNat = (crc16 (s.valid .pkt)).toNat / 256
          ∧ (t.byteAt .pkt (s.regs.pktLen.toNat + 1)).toNat = (crc16 (s.valid .pkt)).toNat % 256
          ∧ (∀ i, i ≠ s.regs.pktLen.toNat → i ≠ s.regs.pktLen.toNat + 1 →
              t.byteAt .pkt i = s.byteAt .pkt i)
          ∧ t.regs.pktLen.toNat = s.regs.pktLen.toNat + 2 ∧ Completed 0x1300 t
          ∧ Keeps [.cmd, .status, .errinfo, .crc, .pktLen] [.pkt] s t)
      ∧ (s.params.pktCap < s.regs.pktLen.toNat + 2 →
        ∃ t, exec .crcAppend s = .next t ∧ RaisesPlainly 0x1300 8 0 s t)

/-- CRC.CHECK (40_crc.md R109): it compares, and a mismatch is not an error. -/
def Obligations.CrcCheckResult : Prop :=
  ∀ s,
    (2 ≤ s.regs.pktLen.toNat → s.regs.pktLen.toNat ≤ s.params.pktCap →
        ∃ t, exec .crcCheck s = .next t
          ∧ t.regs.crc = crc16 (s.slice .pkt 0 (s.regs.pktLen.toNat - 2))
          ∧ t.regs.pecRx.toNat =
              (s.byteAt .pkt (s.regs.pktLen.toNat - 2)).toNat * 256
                + (s.byteAt .pkt (s.regs.pktLen.toNat - 1)).toNat
          ∧ (t.regs.crc = t.regs.pecRx → t.regs.result = 1)
          ∧ (t.regs.crc ≠ t.regs.pecRx → t.regs.result = 0)
          ∧ Completed 0x1400 t ∧ Keeps [.cmd, .status, .errinfo, .crc, .pecRx, .result] [] s t)
      ∧ (s.params.pktCap < s.regs.pktLen.toNat →
        ∃ t, exec .crcCheck s = .next t ∧ RaisesPlainly 0x1400 8 0 s t)
      ∧ (s.regs.pktLen.toNat ≤ s.params.pktCap → s.regs.pktLen.toNat < 2 →
        ∃ t, exec .crcCheck s = .next t ∧ RaisesPlainly 0x1400 1 3 s t)

/-! ### The wire formats -/

/-- `be` and `be_val` are inverse to one another, and `be` puts the most significant byte first
(00_scope.md R12). -/
def Obligations.BigEndianImages : Prop :=
  (∀ n v, (be n v).length = n)
    ∧ (∀ n v k, k < n → octet (be n v) k = v / 256 ^ (n - 1 - k) % 256)
    ∧ (∀ n v, v < 256 ^ n → beVal (be n v) = v)
    ∧ ∀ s, be s.length (beVal s) = s

/-- `hdr_pack` lays the bytes of the table, `hdr_unpack` is its inverse (42_space_packet.md R151). -/
def Obligations.HeaderLayout : Prop :=
  (∀ h, hdrPack h =
      headerBytes h.ver.toNat h.typ.toNat h.shf.toNat h.apid.toNat h.seqf.toNat h.seqc.toNat h.dl.toNat)
    ∧ (∀ h, hdrUnpack (hdrPack h) = h)
    ∧ ∀ s, s.length = 6 → hdrPack (hdrUnpack s) = s

/-- `pf_enc` lays the octets of the tables; `pf_dec` reads them back, whatever follows; and a P-field that
can be read always announces a legal format (41_cuc.md R122 to R124; the layout of the second P-field
octet is the spec's own recollection, R123 and G2 of 93_implementation_defined.md). -/
def Obligations.PFieldLayout : Prop :=
  (∀ basic frac tcid, 1 ≤ basic → basic ≤ 7 → frac ≤ 10 → tcid ≤ 7 →
      pfEnc basic frac tcid = pfieldBytes basic frac tcid
        ∧ ∀ rest, 2 ≤ (pfEnc basic frac tcid ++ rest).length →
          ∃ p, pfDec (pfEnc basic frac tcid ++ rest) = .ok p
            ∧ p.basic = basic ∧ p.frac = frac ∧ p.tcid.toNat = tcid
            ∧ p.n = (pfEnc basic frac tcid).length)
    ∧ ∀ s p, pfDec s = .ok p →
        1 ≤ p.basic ∧ p.basic ≤ 7 ∧ p.frac ≤ 10
          ∧ p.basic = wireBasic s ∧ p.frac = wireFrac s ∧ p.tcid.toNat = wireTcid s
          ∧ p.n = wireOctets s

/-- `rhe` rounds to the nearest integer, ties to the even one (41_cuc.md R140; the tie rule is the spec's
own recollection, G6 of 93_implementation_defined.md). -/
def Obligations.RoundsHalfToEven : Prop :=
  ∀ a d, 1 ≤ d →
    2 * (rhe a d * d) ≤ 2 * a + d ∧ 2 * a ≤ 2 * (rhe a d * d) + d
      ∧ (2 * (rhe a d * d) = 2 * a + d ∨ 2 * a = 2 * (rhe a d * d) + d → rhe a d % 2 = 0)

/-! ### CUC -/

/-- CUC.VAL reports the time checks and never raises (41_cuc.md R130). -/
def Obligations.CucValReports : Prop :=
  ∀ s, Reports .cucVal cucCheckList s 0 (s.regs.cucHasp = 1) ∧ encode .cucVal = 0x2000

/-- CUC.PENC (41_cuc.md R132; the layout of the second P-field octet is the spec's own recollection, R123
and G2 of 93_implementation_defined.md). -/
def Obligations.CucPencResult : Prop :=
  ∀ s,
    (FormatFits s.regs → s.regs.cucTcid.toNat ≤ 7 →
        ∃ t p, exec .cucPenc s = .next t
          ∧ p = pfieldBytes s.regs.cucBasic.toNat s.regs.cucFrac.toNat s.regs.cucTcid.toNat
          ∧ t.regs.pfield.toNat = octet p 0 * 256 + octet p 1
          ∧ t.regs.pfLen.toNat = p.length ∧ t.regs.cucUsed.toNat = p.length ∧ t.regs.vfail = 0
          ∧ Completed 0x2100 t
          ∧ Keeps [.cmd, .status, .errinfo, .vfail, .pfield, .pfLen, .cucUsed] [] s t)
      ∧ (¬FormatFits s.regs →
        ∃ t, exec .cucPenc s = .next t
          ∧ RaisesWithMask 0x2100 3 0 (if 7 < s.regs.cucTcid.toNat then 0x000C0000 else 0x00040000) s t)
      ∧ (FormatFits s.regs → 7 < s.regs.cucTcid.toNat →
        ∃ t, exec .cucPenc s = .next t ∧ RaisesWithMask 0x2100 2 0x00080000 0x00080000 s t)

/-- CUC.PDEC (41_cuc.md R134; the layout of the second P-field octet is the spec's own recollection, R123
and G2 of 93_implementation_defined.md). -/
def Obligations.CucPdecResult : Prop :=
  ∀ s,
    (s.regs.datLen.toNat ≤ s.params.datCap → pfieldError (s.valid .dat) = none →
        ∃ t, exec .cucPdec s = .next t
          ∧ t.regs.cucBasic.toNat = wireBasic (s.valid .dat)
          ∧ t.regs.cucFrac.toNat = wireFrac (s.valid .dat)
          ∧ t.regs.cucTcid.toNat = wireTcid (s.valid .dat)
          ∧ t.regs.pfield.toNat =
              octet (s.valid .dat) 0 * 256
                + (if wireOctets (s.valid .dat) = 2 then octet (s.valid .dat) 1 else 0)
          ∧ t.regs.pfLen.toNat = wireOctets (s.valid .dat)
          ∧ t.regs.cucUsed.toNat = wireOctets (s.valid .dat) ∧ t.regs.vfail = 0
          ∧ Completed 0x2200 t
          ∧ Keeps
              [.cmd, .status, .errinfo, .vfail, .cucBasic, .cucFrac, .cucTcid, .pfield, .pfLen, .cucUsed]
              [] s t)
      ∧ (s.params.datCap < s.regs.datLen.toNat →
        ∃ t, exec .cucPdec s = .next t ∧ RaisesPlainly 0x2200 8 1 s t)
      ∧ (∀ code info, s.regs.datLen.toNat ≤ s.params.datCap →
        pfieldError (s.valid .dat) = some (code, info) →
        ∃ t, exec .cucPdec s = .next t ∧ RaisesPlainly 0x2200 code info s t)

/-- CUC.ENC (41_cuc.md R136, R126; the layout of the second P-field octet is the spec's own recollection,
R123 and G2 of 93_implementation_defined.md). -/
def Obligations.CucEncResult : Prop :=
  ∀ s,
    (TimeFits (s.regs.cucHasp = 1) s.regs → (timeBytes s.regs).length ≤ s.params.datCap →
        ∃ t, exec .cucEnc s = .next t ∧ DataIs s t (timeBytes s.regs)
          ∧ t.regs.cucUsed.toNat = (timeBytes s.regs).length ∧ t.regs.vfail = 0
          ∧ Completed 0x2300 t
          ∧ Keeps [.cmd, .status, .errinfo, .vfail, .datLen, .cucUsed] [.dat] s t)
      ∧ (∀ t, exec .cucVal s = .next t → ¬FormatFits s.regs →
        ∃ u, exec .cucEnc s = .next u ∧ RaisesWithMask 0x2300 3 0 t.regs.vfail s u)
      ∧ (∀ t, exec .cucVal s = .next t → FormatFits s.regs →
        ¬TimeFits (s.regs.cucHasp = 1) s.regs →
        ∃ u, exec .cucEnc s = .next u
          ∧ RaisesWithMask 0x2300 2 t.regs.vfail.toNat t.regs.vfail s u)
      ∧ (TimeFits (s.regs.cucHasp = 1) s.regs → s.params.datCap < (timeBytes s.regs).length →
        ∃ u, exec .cucEnc s = .next u ∧ RaisesWithMask 0x2300 8 1 0 s u)

/-- CUC.DEC (41_cuc.md R138, R128; the layout of the second P-field octet is the spec's own recollection,
R123 and G2 of 93_implementation_defined.md). -/
def Obligations.CucDecResult : Prop :=
  ∀ s,
    (s.regs.datLen.toNat ≤ s.params.datCap → timeError s.regs (s.valid .dat) = none →
        ∃ t, exec .cucDec s = .next t ∧ TimeParsed (s.valid .dat) s t ∧ t.regs.vfail = 0
          ∧ Completed 0x2400 t
          ∧ Keeps
              [.cmd, .status, .errinfo, .vfail, .cucBasic, .cucFrac, .cucTcid, .cucSec, .cucFrc,
                .cucUsed]
              [] s t)
      ∧ (s.params.datCap < s.regs.datLen.toNat →
        ∃ t, exec .cucDec s = .next t ∧ RaisesPlainly 0x2400 8 1 s t)
      ∧ (∀ code info, s.regs.datLen.toNat ≤ s.params.datCap →
        timeError s.regs (s.valid .dat) = some (code, info) →
        ∃ t, exec .cucDec s = .next t ∧ RaisesPlainly 0x2400 code info s t)

/-- CUC.FROMDT (41_cuc.md R142): `a` and `e` are the time and the epoch in sub-second units, `x` is the
elapsed time, `sec` and `frc` the encoded value. The tie rule of `rhe` is the spec's own recollection (G6 of
93_implementation_defined.md), and `params.ok` holds DT_DEN in the bounds of log entry 2. -/
def Obligations.CucFromdtResult : Prop :=
  ∀ s, s.params.ok = true →
    ∀ d a e x sec frc,
      d = s.params.dtDen →
      a = s.regs.dtSec.toNat * d + s.regs.dtSub.toNat →
      e = s.regs.epSec.toNat * d + s.regs.epSub.toNat →
      x = a - e →
      sec = (if 0 < s.regs.cucFrac.toNat then x / d else rhe x d) →
      frc = (if 0 < s.regs.cucFrac.toNat then rhe (x % d * (2 ^ (8 * s.regs.cucFrac.toNat) - 1)) d
              else 0) →
      (¬FormatFits s.regs →
          ∃ t, exec .cucFromdt s = .next t
            ∧ RaisesWithMask 0x2500 3 0
                (if d ≤ s.regs.dtSub.toNat ∨ d ≤ s.regs.epSub.toNat then 0x00840000 else 0x00040000) s t)
        ∧ (FormatFits s.regs → d ≤ s.regs.dtSub.toNat ∨ d ≤ s.regs.epSub.toNat →
          ∃ t, exec .cucFromdt s = .next t ∧ RaisesWithMask 0x2500 2 0x00800000 0x00800000 s t)
        ∧ (FormatFits s.regs → s.regs.dtSub.toNat < d → s.regs.epSub.toNat < d → a < e →
          ∃ t, exec .cucFromdt s = .next t ∧ RaisesWithMask 0x2500 6 0 0 s t)
        ∧ (FormatFits s.regs → s.regs.dtSub.toNat < d → s.regs.epSub.toNat < d → e ≤ a →
          2 ^ (8 * s.regs.cucBasic.toNat) ≤ sec →
          ∃ t, exec .cucFromdt s = .next t ∧ RaisesWithMask 0x2500 2 0x00100000 0x00100000 s t)
        ∧ (FormatFits s.regs → s.regs.dtSub.toNat < d → s.regs.epSub.toNat < d → e ≤ a →
          sec < 2 ^ (8 * s.regs.cucBasic.toNat) →
          ∃ t, exec .cucFromdt s = .next t ∧ t.regs.cucSec.toNat = sec ∧ t.regs.cucFrc.toNat = frc
            ∧ t.regs.elSec.toNat = x / d ∧ t.regs.elSub.toNat = x % d ∧ t.regs.vfail = 0
            ∧ Completed 0x2500 t
            ∧ Keeps [.cmd, .status, .errinfo, .vfail, .cucSec, .cucFrc, .elSec, .elSub] [] s t)

/-- CUC.TOFIX (41_cuc.md R144). -/
def Obligations.CucTofixResult : Prop :=
  ∀ s,
    (TimeFits false s.regs →
        ∃ t, exec .cucTofix s = .next t
          ∧ t.regs.fix.toNat =
              s.regs.cucSec.toNat * 2 ^ (8 * s.regs.cucFrac.toNat) + s.regs.cucFrc.toNat
          ∧ t.regs.fixFbits.toNat = 8 * s.regs.cucFrac.toNat ∧ t.regs.vfail = 0
          ∧ Completed 0x2600 t ∧ Keeps [.cmd, .status, .errinfo, .vfail, .fix, .fixFbits] [] s t)
      ∧ (¬FormatFits s.regs →
        ∃ t, exec .cucTofix s = .next t ∧ RaisesWithMask 0x2600 3 0 0x00040000 s t)
      ∧ (FormatFits s.regs → ¬TimeFits false s.regs →
        ∃ t m, exec .cucTofix s = .next t ∧ ShowsChecks m [20, 21] s 0 false
          ∧ RaisesWithMask 0x2600 2 m.toNat m s t)

/-- CUC.ENC, then CUC.DEC of the same field with the same CUC_HASP and, without preamble, the same widths,
returns the same value and, with preamble, the same format (41_cuc.md R146 (a), which the spec marks as
derived). -/
def Obligations.CucRoundTrip : Prop :=
  ∀ s t u, exec .cucEnc s = .next t → errorCode t = 0 →
    u.params = t.params → u.valid .dat = t.valid .dat → u.regs.datLen = t.regs.datLen →
    u.regs.cucHasp = s.regs.cucHasp →
    (s.regs.cucHasp = 0 → Agree [.cucBasic, .cucFrac] s u) →
    ∃ v, exec .cucDec u = .next v ∧ errorCode v = 0 ∧ Agree [.cucSec, .cucFrc] s v
      ∧ (s.regs.cucHasp = 1 → Agree [.cucBasic, .cucFrac, .cucTcid] s v)
      ∧ v.regs.cucUsed.toNat = t.regs.datLen.toNat

/-- CUC.FROMDT, then CUC.TOFIX: with a fraction field the value is above the elapsed time by at most half
a unit and below it by less than one and a half; without one it is within half a second (41_cuc.md R146
(b), multiplied out, which the spec marks as derived). -/
def Obligations.FromdtTofixBound : Prop :=
  ∀ s t, exec .cucFromdt s = .next t → errorCode t = 0 →
    ∃ u, exec .cucTofix t = .next u ∧ errorCode u = 0
      ∧ ∀ d x v : Int,
          d = s.params.dtDen →
          x = (s.regs.dtSec.toNat * s.params.dtDen + s.regs.dtSub.toNat : Int)
                - (s.regs.epSec.toNat * s.params.dtDen + s.regs.epSub.toNat) →
          v = u.regs.fix.toNat →
          (0 < s.regs.cucFrac.toNat →
              -(3 * d) < 2 * (v * d - x * 2 ^ u.regs.fixFbits.toNat)
                ∧ 2 * (v * d - x * 2 ^ u.regs.fixFbits.toNat) ≤ d)
            ∧ (s.regs.cucFrac.toNat = 0 → -d ≤ 2 * (v * d - x) ∧ 2 * (v * d - x) ≤ d)

/-! ### Space packets -/

/-- SP.VAL reports the checks of SP.PACK (45_validators.md R216). -/
def Obligations.SpValReports : Prop :=
  ∀ s, Reports .spVal spChecks s s.regs.datLen.toNat false ∧ encode .spVal = 0x3000

/-- SP.PACK (42_space_packet.md R154, with the length invariant of R155). -/
def Obligations.SpPackResult : Prop :=
  ∀ s,
    (HeaderFits true s.regs → LengthFits s s.regs.datLen.toNat →
        ∃ t, exec .spPack s = .next t
          ∧ PacketBuilt s t s.regs.ptype.toNat s.regs.shf.toNat (s.valid .dat)
          ∧ t.regs.vfail = 0 ∧ Completed 0x3100 t
          ∧ Keeps [.cmd, .status, .errinfo, .vfail, .pktLen, .dlen] [.pkt] s t)
      ∧ PackRefuses .spPack spChecks s s.regs.datLen.toNat false ∧ encode .spPack = 0x3100

/-- SP.PARSE (42_space_packet.md R156, R157): the packet split, or the first error in the fixed order. -/
def Obligations.SpParseResult : Prop :=
  ∀ s,
    (spParseError s = none →
        ∃ t, exec .spParse s = .next t ∧ FrameParsed s t ∧ DataIs s t (payload s)
          ∧ t.regs.vfail = 0 ∧ Completed 0x3200 t ∧ Keeps frameRegs [.dat] s t)
      ∧ (∀ code info, spParseError s = some (code, info) →
        ∃ t, exec .spParse s = .next t ∧ RaisesPlainly 0x3200 code info s t)

/-- SP.PACK, then SP.PARSE of the packet with the same HAS_PEC, gives back every field and byte
(42_space_packet.md R158, which the spec marks as derived). -/
def Obligations.SpRoundTrip : Prop :=
  ∀ s t u, exec .spPack s = .next t → errorCode t = 0 → SamePacket t u →
    ∃ v, exec .spParse u = .next v ∧ errorCode v = 0
      ∧ Agree [.ver, .ptype, .shf, .apid, .seqf, .seqc, .datLen] s v ∧ v.regs.dlen = t.regs.dlen
      ∧ v.valid .dat = s.valid .dat
      ∧ (s.regs.hasPec = 1 →
          v.regs.pecRx = crc16 (t.slice .pkt 0 (t.regs.pktLen.toNat - 2)))

/-- SP.PARSE, then SP.PACK, gives back the packet up to its PEC, and the PEC exactly when the received one
was right (42_space_packet.md R158, "Conversely", which the spec marks as derived). -/
def Obligations.SpParsePackRoundTrip : Prop :=
  ∀ s t, exec .spParse s = .next t → errorCode t = 0 →
    ∃ u, exec .spPack t = .next u ∧ errorCode u = 0 ∧ u.regs.pktLen = s.regs.pktLen
      ∧ (∀ i, i < 6 + payloadLen s → u.byteAt .pkt i = s.byteAt .pkt i)
      ∧ (u.valid .pkt = s.valid .pkt ↔
          (s.regs.hasPec = 1 → t.regs.pecRx = crc16 (s.slice .pkt 0 (6 + payloadLen s))))

/-! ### Telecommand packets -/

/-- TC.VAL reports the checks of TC.PACK (45_validators.md R217). -/
def Obligations.TcValReports : Prop :=
  ∀ s, Reports .tcVal tcCheckList s (tcPayloadLen s.regs) false ∧ encode .tcVal = 0x4000

/-- TC.PACK (43_pus_tc.md R175, R172): type and secondary header flag are forced to 1 and written back;
a PUS version other than 1 and 2 is only flagged. -/
def Obligations.TcPackResult : Prop :=
  ∀ s,
    (HeaderFits false s.regs → TcFits s.regs →
        LengthFits s (3 + s.regs.tcSrcW.toNat + s.regs.datLen.toNat) →
        ∃ t, exec .tcPack s = .next t ∧ PacketBuilt s t 1 1 (tcBytes s)
          ∧ t.regs.ptype = 1 ∧ t.regs.shf = 1
          ∧ t.regs.vfail = (if s.regs.pusv = 1 ∨ s.regs.pusv = 2 then 0 else 0x01000000)
          ∧ Completed 0x4100 t
          ∧ Keeps [.cmd, .status, .errinfo, .vfail, .pktLen, .dlen, .ptype, .shf] [.pkt] s t)
      ∧ PackRefuses .tcPack tcCheckList s (tcPayloadLen s.regs) false ∧ encode .tcPack = 0x4100

/-- TC.PARSE (43_pus_tc.md R178): the width check first, then the packet split and the secondary header
read, or the first error in the fixed order. -/
def Obligations.TcParseResult : Prop :=
  ∀ s,
    (8 < s.regs.tcSrcW.toNat →
        ∃ t, exec .tcParse s = .next t ∧ RaisesWithMask 0x4200 2 0x1000 0x1000 s t)
      ∧ (∀ code info, s.regs.tcSrcW.toNat ≤ 8 → tcParseError s = some (code, info) →
        ∃ t, exec .tcParse s = .next t ∧ RaisesPlainly 0x4200 code info s t)
      ∧ (s.regs.tcSrcW.toNat ≤ 8 → tcParseError s = none →
        ∃ t, exec .tcParse s = .next t ∧ FrameParsed s t
          ∧ t.regs.pusv.toNat = octet (payload s) 0 / 16
          ∧ t.regs.ack.toNat = octet (payload s) 0 % 16
          ∧ t.regs.svc.toNat = octet (payload s) 1 ∧ t.regs.sub.toNat = octet (payload s) 2
          ∧ t.regs.src.toNat = beVal (((payload s).drop 3).take s.regs.tcSrcW.toNat)
          ∧ DataIs s t ((payload s).drop (3 + s.regs.tcSrcW.toNat))
          ∧ AdvisoryIs t 1 ∧ Completed 0x4200 t
          ∧ Keeps (frameRegs ++ [.pusv, .ack, .svc, .sub, .src]) [.dat] s t)

/-- TC.PACK, then TC.PARSE of the packet with the same HAS_PEC and TC_SRC_W, gives back every field and
byte (43_pus_tc.md R188, which the spec marks as derived). -/
def Obligations.TcRoundTrip : Prop :=
  ∀ s t u, exec .tcPack s = .next t → errorCode t = 0 → SamePacket t u →
    u.regs.tcSrcW = s.regs.tcSrcW →
    ∃ v, exec .tcParse u = .next v ∧ errorCode v = 0
      ∧ Agree [.ver, .apid, .seqf, .seqc, .pusv, .ack, .svc, .sub, .datLen] s v
      ∧ v.regs.ptype = 1 ∧ v.regs.shf = 1 ∧ v.regs.dlen = t.regs.dlen
      ∧ v.regs.src = (if s.regs.tcSrcW = 0 then 0 else s.regs.src)
      ∧ v.valid .dat = s.valid .dat

/-- TC.ACK with any legal mask (43_pus_tc.md R183). -/
def Obligations.TcAckResult : Prop :=
  ∀ s m, oneHot m = true →
    ∃ t, exec (.tcAck m) s = .next t
      ∧ (s.regs.ack.toNat &&& m.toNat ≠ 0 → t.regs.result = 1)
      ∧ (s.regs.ack.toNat &&& m.toNat = 0 → t.regs.result = 0)
      ∧ Completed (0x43#8 ++ 0#4 ++ m) t ∧ Keeps [.cmd, .status, .errinfo, .result] [] s t

/-- TC.REQID (43_pus_tc.md R186; that the identifier is the first four header bytes is the spec's own
recollection, G5 of 93_implementation_defined.md). -/
def Obligations.TcReqidResult : Prop :=
  ∀ s,
    (HeaderFits true s.regs →
        ∃ t, exec .tcReqid s = .next t
          ∧ t.regs.reqid.toNat =
              s.regs.ver.toNat * 2 ^ 29 + s.regs.ptype.toNat * 2 ^ 28 + s.regs.shf.toNat * 2 ^ 27
                + s.regs.apid.toNat * 2 ^ 16 + s.regs.seqf.toNat * 2 ^ 14 + s.regs.seqc.toNat
          ∧ t.regs.vfail = 0 ∧ Completed 0x4400 t
          ∧ Keeps [.cmd, .status, .errinfo, .vfail, .reqid] [] s t)
      ∧ (¬HeaderFits true s.regs →
        ∃ t m, exec .tcReqid s = .next t ∧ ShowsChecks m [0, 1, 2, 3, 4, 5] s 0 false
          ∧ RaisesWithMask 0x4400 2 m.toNat m s t)

/-! ### Telemetry packets -/

/-- TM.VAL reports the checks of TM.PACK (45_validators.md R218). -/
def Obligations.TmValReports : Prop :=
  ∀ s, Reports .tmVal tmCheckList s (tmPayloadLen s.regs) (s.regs.cucHasp = 1)
    ∧ encode .tmVal = 0x5000

/-- TM.PACK (44_pus_tm.md R194, R191): the type is forced to 0 and the secondary header flag to 1, both
written back; a PUS version other than 1 and 2 is only flagged. Of the time field, the layout of the
second P-field octet is the spec's own recollection, R123 and G2 of 93_implementation_defined.md. -/
def Obligations.TmPackResult : Prop :=
  ∀ s,
    (HeaderFits false s.regs → TmFits s.regs → TimeFits (s.regs.cucHasp = 1) s.regs →
        LengthFits s (tmBytes s).length →
        ∃ t, exec .tmPack s = .next t ∧ PacketBuilt s t 0 1 (tmBytes s)
          ∧ t.regs.ptype = 0 ∧ t.regs.shf = 1
          ∧ t.regs.vfail = (if s.regs.pusv = 1 ∨ s.regs.pusv = 2 then 0 else 0x01000000)
          ∧ Completed 0x5100 t
          ∧ Keeps [.cmd, .status, .errinfo, .vfail, .pktLen, .dlen, .ptype, .shf] [.pkt] s t)
      ∧ PackRefuses .tmPack tmCheckList s (tmPayloadLen s.regs) (s.regs.cucHasp = 1)
      ∧ encode .tmPack = 0x5100

/-- TM.PARSE (44_pus_tm.md R197): the width checks first, then the packet split, the secondary header and
the time field read, or the first error in the fixed order. Of the time field,
the layout of the second P-field octet is the spec's own recollection, R123 and G2 of
93_implementation_defined.md. -/
def Obligations.TmParseResult : Prop :=
  ∀ s,
    (8 < s.regs.tmCntW.toNat ∨ 8 < s.regs.tmDstW.toNat →
        ∃ t m, exec .tmParse s = .next t
          ∧ m = (if 8 < s.regs.tmCntW.toNat then 0x4000 else 0)
                  + (if 8 < s.regs.tmDstW.toNat then 0x10000 else 0)
          ∧ RaisesWithMask 0x5200 2 m (BitVec.ofNat 32 m) s t)
      ∧ (∀ code info, s.regs.tmCntW.toNat ≤ 8 → s.regs.tmDstW.toNat ≤ 8 →
        tmParseError s = some (code, info) →
        ∃ t, exec .tmParse s = .next t ∧ RaisesPlainly 0x5200 code info s t)
      ∧ (s.regs.tmCntW.toNat ≤ 8 → s.regs.tmDstW.toNat ≤ 8 → tmParseError s = none →
        ∃ t, exec .tmParse s = .next t ∧ FrameParsed s t
          ∧ t.regs.pusv.toNat = octet (payload s) 0 / 16
          ∧ t.regs.stat.toNat = octet (payload s) 0 % 16
          ∧ t.regs.svc.toNat = octet (payload s) 1 ∧ t.regs.sub.toNat = octet (payload s) 2
          ∧ t.regs.cnt.toNat = beVal (((payload s).drop 3).take s.regs.tmCntW.toNat)
          ∧ t.regs.dst.toNat =
              beVal (((payload s).drop (3 + s.regs.tmCntW.toNat)).take s.regs.tmDstW.toNat)
          ∧ TimeParsed (tmTail s) s t
          ∧ DataIs s t ((tmTail s).drop (timeUsed s.regs (tmTail s)))
          ∧ AdvisoryIs t 0 ∧ Completed 0x5200 t
          ∧ Keeps
              (frameRegs
                ++ [.pusv, .stat, .svc, .sub, .cnt, .dst, .cucBasic, .cucFrac, .cucTcid, .cucSec,
                  .cucFrc, .cucUsed])
              [.dat] s t)

/-- TM.PACK, then TM.PARSE of the packet with the same HAS_PEC, widths, CUC_HASP and, without preamble, unit
lengths, gives back every field and byte (44_pus_tm.md R199, which the spec marks as derived). -/
def Obligations.TmRoundTrip : Prop :=
  ∀ s t u, exec .tmPack s = .next t → errorCode t = 0 → SamePacket t u →
    Agree [.tmCntW, .tmDstW, .cucHasp] s u →
    (s.regs.cucHasp = 0 → Agree [.cucBasic, .cucFrac] s u) →
    ∃ v, exec .tmParse u = .next v ∧ errorCode v = 0
      ∧ Agree [.ver, .apid, .seqf, .seqc, .pusv, .stat, .svc, .sub, .cucBasic, .cucFrac, .cucSec, .cucFrc,
          .datLen] s v
      ∧ v.regs.ptype = 0 ∧ v.regs.shf = 1 ∧ v.regs.dlen = t.regs.dlen
      ∧ v.regs.cnt = (if s.regs.tmCntW = 0 then 0 else s.regs.cnt)
      ∧ v.regs.dst = (if s.regs.tmDstW = 0 then 0 else s.regs.dst)
      ∧ (s.regs.cucHasp = 1 → v.regs.cucTcid = s.regs.cucTcid)
      ∧ (s.regs.cucHasp = 0 → v.regs.cucTcid = u.regs.cucTcid)
      ∧ v.valid .dat = s.valid .dat

/-! ### Rules about every operation -/

/-- A VAL operation predicts the matching PACK or ENC operation: RESULT is 1 exactly when that would
complete from the same state, and VFAIL is the same (45_validators.md R210). CUC.VAL does not look at the
capacity of DAT, so it predicts CUC.ENC where DAT can hold the longest time field (log entry 6). -/
def Obligations.ValidatorsPredict : Prop :=
  ∀ s val pack,
    (val, pack) ∈ [(Instr.spVal, Instr.spPack), (.tcVal, .tcPack), (.tmVal, .tmPack)]
        ∨ ((val, pack) = (.cucVal, .cucEnc) ∧ 19 ≤ s.params.datCap) →
    ∃ t u, exec val s = .next t ∧ exec pack s = .next u ∧ u.regs.vfail = t.regs.vfail
      ∧ (t.regs.result = 1 ↔ errorCode u = 0)

/-- Every command ends, in one of two ways. It completes, with the record of completion and ERRLOG as it
was but for SYS.CLRERR and SYS.RESET, or it raises, and then the state after is the state before plus the
error record and VFAIL (60_exceptions.md R240, R244, R245, 10_state.md R24 to R26). -/
def Obligations.EveryCommandCompletesOrRaises : Prop :=
  ∀ s w,
    ∃ t, step (s.withFetchWord 16 w.toNat) = .next t
      ∧ ((w = 0x0200 ∧ t.regs.cmd = 0 ∧ t.regs.status = 0)
          ∨ (w ≠ 0x0200 ∧ Completed w t ∧ (w ≠ 0x0100 → t.regs.errlog = s.regs.errlog))
          ∨ (w ≠ 0x0200 ∧ ∃ code info, 1 ≤ code ∧ code ≤ 8 ∧ Raised w code info s t
              ∧ Keeps [.cmd, .status, .errlog, .errinfo, .vfail] [] s t))

/-- Which operation can raise which error, with which ERRINFO (60_exceptions.md R243, which the spec marks
as derived). -/
def Obligations.OnlyListedErrors : Prop :=
  ∀ i s t, exec i s = .next t → errorCode t ≠ 0 → mayRaise i (errorCode t) t.regs.errinfo.toNat

/-- Which operation can change which register and which buffer (10_state.md R47, 20_memory.md R61). -/
def Obligations.OnlyListedWrites : Prop :=
  ∀ i s t, exec i s = .next t →
    (∀ r, r ∉ [.cmd, .status, .errlog, .errinfo] ++ mayWrite i → t.regs.get r = s.regs.get r)
      ∧ (i ∉ pktWriters → ∀ j, t.byteAt .pkt j = s.byteAt .pkt j)
      ∧ (i ∉ datWriters → ∀ j, t.byteAt .dat j = s.byteAt .dat j)
      ∧ SameWorld s t

/-- No operation depends on a buffer byte at or beyond the length register, nor on anything outside the
CORE's state: two states with the same registers, parameters and valid bytes give the same registers and
the same valid bytes (00_scope.md R7, 70_reset_and_hazards.md R272). -/
def Obligations.InvalidBytesAreNeverRead : Prop :=
  ∀ i s t s', SameInputs s t → exec i s = .next s' →
    ∃ t', exec i t = .next t' ∧ SameInputs s' t'

/-- What CUC.VAL predicts of CUC.ENC at every capacity of DAT. VFAIL is the same. CUC.ENC completes exactly
when RESULT is 1 and DAT can hold the time field; it raises E_CAPACITY(1) exactly when RESULT is 1 and DAT
cannot; it raises E_TIMEFMT or E_RANGE exactly when RESULT is 0 (41_cuc.md R130, R136). So RESULT predicts
the checks that 45_validators.md R211 gives CUC, and the capacity of DAT is none of them (log entry 6). -/
def Obligations.CucValPredictsUpToCapacity : Prop :=
  ∀ s, ∃ t u, exec .cucVal s = .next t ∧ exec .cucEnc s = .next u ∧ u.regs.vfail = t.regs.vfail
    ∧ (t.regs.result = 0 ∨ t.regs.result = 1)
    ∧ (errorCode u = 0 ↔ t.regs.result = 1 ∧ (timeBytes s.regs).length ≤ s.params.datCap)
    ∧ (errorCode u = 8 ↔ t.regs.result = 1 ∧ s.params.datCap < (timeBytes s.regs).length)
    ∧ (errorCode u = 8 → u.regs.errinfo = 1)
    ∧ (t.regs.result = 0 ↔ errorCode u = 2 ∨ errorCode u = 3)
end

