-- ==== Sys2Proof/Laws/Memory.lean ====
section
/-! SUPPORT. The buffer contents: what is read after a write, and that every operation on a buffer keeps the
one canonical form (10_state.md R45, 20_memory.md R71). -/

namespace Sys2Proof.Machine

@[simp] theorem Memory.written_nil (i : Nat) : Memory.written [] i = none := rfl

theorem Memory.written_write (m : Memory) (i : Nat) (b : Byte) (j : Nat) :
    (m.write i b).written j = if j = i then some b else m.written j := by
  induction m with
  | nil => simp [Memory.write, Memory.written]
  | cons c m ih =>
    obtain ⟨k, v⟩ := c
    unfold Memory.write
    split
    · simp [Memory.written]
    · split
      · next h => subst h; simp [Memory.written]; split <;> rfl
      · next h1 h2 =>
        simp only [Memory.written, ih]
        split <;> split <;> first | rfl | omega

@[simp] theorem Memory.written_write_same (m : Memory) (i : Nat) (b : Byte) :
    (m.write i b).written i = some b := by
  simp [Memory.written_write]

theorem Memory.written_write_other (m : Memory) {i j : Nat} (b : Byte) (h : j ≠ i) :
    (m.write i b).written j = m.written j := by
  simp [Memory.written_write, h]

/-- The cells `write` leaves are the new one and old ones. -/
theorem Memory.mem_write {m : Memory} {i : Nat} {b : Byte} {c : Host.Cell} (h : c ∈ m.write i b) :
    c = (i, b) ∨ c ∈ m := by
  induction m with
  | nil => simpa [Memory.write] using h
  | cons d m ih =>
    obtain ⟨k, v⟩ := d
    unfold Memory.write at h
    split at h
    · simpa using h
    · split at h
      · next e => subst e; simp at h; rcases h with h | h <;> simp [h]
      · simp only [List.mem_cons] at h ⊢
        rcases h with h | h
        · simp [h]
        · rcases ih h with h | h <;> simp [h]

theorem Memory.wf_write {m : Memory} (h : m.wf) (i : Nat) (b : Byte) : (m.write i b).wf := by
  induction m with
  | nil => simp [Memory.wf, Memory.write]
  | cons d m ih =>
    obtain ⟨k, v⟩ := d
    simp only [Memory.wf, List.pairwise_cons] at h
    unfold Memory.write
    split
    · next hlt =>
      simp only [Memory.wf, List.pairwise_cons, List.mem_cons]
      refine ⟨?_, h.1, h.2⟩
      rintro a (rfl | ha)
      · exact hlt
      · exact Nat.lt_trans hlt (h.1 a ha)
    · split
      · next e => subst e; exact List.pairwise_cons.2 ⟨h.1, h.2⟩
      · next h1 h2 =>
        refine List.pairwise_cons.2 ⟨?_, ih h.2⟩
        intro a ha
        rcases Memory.mem_write ha with rfl | ha
        · simp only; omega
        · exact h.1 a ha

theorem Memory.within_write {m : Memory} {cap i : Nat} (h : m.within cap) (hi : i < cap) (b : Byte) :
    (m.write i b).within cap := by
  intro c hc
  rcases Memory.mem_write hc with rfl | hc
  · exact hi
  · exact h c hc

theorem written_cellsFrom (s : Bytes) (k i : Nat) (m : Memory) :
    Memory.written (cellsFrom k s ++ m) i =
      if k ≤ i ∧ i < k + s.length then s[i - k]? else m.written i := by
  induction s generalizing k with
  | nil =>
    have : ¬(k ≤ i ∧ i < k) := by omega
    simp [cellsFrom, this]
  | cons b s ih =>
    simp only [cellsFrom, List.cons_append, Memory.written, ih (k + 1), List.length_cons]
    split
    · next h =>
      subst h
      have : i ≤ i ∧ i < i + (s.length + 1) := by omega
      simp
    · next h =>
      by_cases h2 : k + 1 ≤ i ∧ i < k + 1 + s.length
      · have h3 : k ≤ i ∧ i < k + (s.length + 1) := by omega
        rw [if_pos h2, if_pos h3]
        have : i - k = (i - (k + 1)) + 1 := by omega
        rw [this, List.getElem?_cons_succ]
      · have h3 : ¬(k ≤ i ∧ i < k + (s.length + 1)) := by omega
        rw [if_neg h2, if_neg h3]

theorem Memory.written_filter (m : Memory) (n i : Nat) (h : n ≤ i) :
    Memory.written (m.filter (fun c => decide (n ≤ c.1))) i = m.written i := by
  induction m with
  | nil => rfl
  | cons c m ih =>
    obtain ⟨k, v⟩ := c
    simp only [List.filter_cons]
    split
    · simp [Memory.written, ih]
    · next hk =>
      have : i ≠ k := by simp at hk; omega
      simp [Memory.written, ih, this]

/-- What is read after `overwrite`: the sequence below its length, the old contents from there on. -/
theorem Memory.written_overwrite (m : Memory) (s : Bytes) (i : Nat) :
    (m.overwrite s).written i = if i < s.length then s[i]? else m.written i := by
  unfold Memory.overwrite
  rw [written_cellsFrom]
  by_cases h : i < s.length
  · simp [h]
  · have : s.length ≤ i := by omega
    simp [h, Memory.written_filter m _ _ this]

theorem mem_cellsFrom {s : Bytes} {k : Nat} {c : Host.Cell} (h : c ∈ cellsFrom k s) :
    k ≤ c.1 ∧ c.1 < k + s.length := by
  induction s generalizing k with
  | nil => simp [cellsFrom] at h
  | cons b s ih =>
    simp only [cellsFrom, List.mem_cons] at h
    rcases h with rfl | h
    · simp
    · have := ih h
      simp only [List.length_cons]
      omega

theorem wf_cellsFrom (s : Bytes) (k : Nat) : Memory.wf (cellsFrom k s) := by
  induction s generalizing k with
  | nil => exact List.Pairwise.nil
  | cons b s ih =>
    refine List.pairwise_cons.2 ⟨?_, ih (k + 1)⟩
    intro c hc
    have := mem_cellsFrom hc
    simp only
    omega

theorem Memory.wf_overwrite {m : Memory} (h : m.wf) (s : Bytes) : (m.overwrite s).wf := by
  refine List.pairwise_append.2 ⟨wf_cellsFrom s 0, h.filter _, ?_⟩
  intro a ha b hb
  have h1 := mem_cellsFrom ha
  simp only [List.mem_filter, decide_eq_true_eq] at hb
  omega

theorem Memory.within_overwrite {m : Memory} {cap : Nat} (h : m.within cap) {s : Bytes}
    (hs : s.length ≤ cap) : (m.overwrite s).within cap := by
  intro c hc
  simp only [Memory.overwrite, List.mem_append, List.mem_filter] at hc
  rcases hc with hc | hc
  · have := mem_cellsFrom hc
    omega
  · exact h c hc.1

/-- State.reset's buffers have the form. -/
theorem reset_buffers_wf : State.reset.pkt.wf ∧ State.reset.dat.wf :=
  ⟨List.Pairwise.nil, List.Pairwise.nil⟩

end Sys2Proof.Machine
end

