-- ==== Sys2Proof/Laws/State.lean ====
section
/-! SUPPORT. What each update of the state does to each field of it, so that no proof unfolds an update. -/

namespace Sys2Proof.Machine

/-! ### complete -/

@[simp] theorem State.complete_regs (s : State) (w : CmdWord) :
    (s.complete w).regs = { s.regs with cmd := w, status := statusWord w 0, errinfo := 0 } := rfl

@[simp] theorem State.complete_pkt (s : State) (w : CmdWord) : (s.complete w).pkt = s.pkt := rfl

@[simp] theorem State.complete_dat (s : State) (w : CmdWord) : (s.complete w).dat = s.dat := rfl

@[simp] theorem State.complete_params (s : State) (w : CmdWord) :
    (s.complete w).params = s.params := rfl

@[simp] theorem State.complete_pending (s : State) (w : CmdWord) :
    (s.complete w).pending = s.pending := rfl

@[simp] theorem State.complete_reply (s : State) (w : CmdWord) :
    (s.complete w).reply = s.reply := rfl

@[simp] theorem State.complete_resets (s : State) (w : CmdWord) :
    (s.complete w).resets = s.resets := rfl

/-! ### raise -/

@[simp] theorem State.raise_regs (s : State) (w : CmdWord) (e : Err) :
    (s.raise w e).regs =
      { s.regs with
        cmd := w
        status := statusWord w e.code
        errlog := s.regs.errlog ||| BitVec.twoPow 16 e.code
        errinfo := e.info } := rfl

@[simp] theorem State.raise_pkt (s : State) (w : CmdWord) (e : Err) :
    (s.raise w e).pkt = s.pkt := rfl

@[simp] theorem State.raise_dat (s : State) (w : CmdWord) (e : Err) :
    (s.raise w e).dat = s.dat := rfl

@[simp] theorem State.raise_params (s : State) (w : CmdWord) (e : Err) :
    (s.raise w e).params = s.params := rfl

@[simp] theorem State.raise_pending (s : State) (w : CmdWord) (e : Err) :
    (s.raise w e).pending = s.pending := rfl

@[simp] theorem State.raise_reply (s : State) (w : CmdWord) (e : Err) :
    (s.raise w e).reply = s.reply := rfl

@[simp] theorem State.raise_resets (s : State) (w : CmdWord) (e : Err) :
    (s.raise w e).resets = s.resets := rfl

/-! ### withVfail -/

@[simp] theorem State.withVfail_regs (s : State) (m : Mask) :
    (s.withVfail m).regs = { s.regs with vfail := m } := rfl

@[simp] theorem State.withVfail_pkt (s : State) (m : Mask) : (s.withVfail m).pkt = s.pkt := rfl

@[simp] theorem State.withVfail_dat (s : State) (m : Mask) : (s.withVfail m).dat = s.dat := rfl

@[simp] theorem State.withVfail_params (s : State) (m : Mask) :
    (s.withVfail m).params = s.params := rfl

@[simp] theorem State.withVfail_pending (s : State) (m : Mask) :
    (s.withVfail m).pending = s.pending := rfl

@[simp] theorem State.withVfail_reply (s : State) (m : Mask) :
    (s.withVfail m).reply = s.reply := rfl

@[simp] theorem State.withVfail_resets (s : State) (m : Mask) :
    (s.withVfail m).resets = s.resets := rfl

/-! ### withResult -/

@[simp] theorem State.withResult_regs (s : State) (y : Bool) :
    (s.withResult y).regs = { s.regs with result := if y then 1 else 0 } := rfl

@[simp] theorem State.withResult_pkt (s : State) (y : Bool) : (s.withResult y).pkt = s.pkt := rfl

@[simp] theorem State.withResult_dat (s : State) (y : Bool) : (s.withResult y).dat = s.dat := rfl

@[simp] theorem State.withResult_params (s : State) (y : Bool) :
    (s.withResult y).params = s.params := rfl

@[simp] theorem State.withResult_pending (s : State) (y : Bool) :
    (s.withResult y).pending = s.pending := rfl

@[simp] theorem State.withResult_reply (s : State) (y : Bool) :
    (s.withResult y).reply = s.reply := rfl

@[simp] theorem State.withResult_resets (s : State) (y : Bool) :
    (s.withResult y).resets = s.resets := rfl

/-! ### withCrc -/

@[simp] theorem State.withCrc_regs (s : State) (c : BitVec 16) :
    (s.withCrc c).regs = { s.regs with crc := c } := rfl

@[simp] theorem State.withCrc_pkt (s : State) (c : BitVec 16) : (s.withCrc c).pkt = s.pkt := rfl

@[simp] theorem State.withCrc_dat (s : State) (c : BitVec 16) : (s.withCrc c).dat = s.dat := rfl

@[simp] theorem State.withCrc_params (s : State) (c : BitVec 16) :
    (s.withCrc c).params = s.params := rfl

@[simp] theorem State.withCrc_pending (s : State) (c : BitVec 16) :
    (s.withCrc c).pending = s.pending := rfl

@[simp] theorem State.withCrc_reply (s : State) (c : BitVec 16) :
    (s.withCrc c).reply = s.reply := rfl

@[simp] theorem State.withCrc_resets (s : State) (c : BitVec 16) :
    (s.withCrc c).resets = s.resets := rfl

/-! ### withTypeFlag -/

@[simp] theorem State.withTypeFlag_regs (s : State) (y f : BitVec 1) :
    (s.withTypeFlag y f).regs = { s.regs with ptype := y.setWidth 32, shf := f.setWidth 32 } := rfl

@[simp] theorem State.withTypeFlag_pkt (s : State) (y f : BitVec 1) :
    (s.withTypeFlag y f).pkt = s.pkt := rfl

@[simp] theorem State.withTypeFlag_dat (s : State) (y f : BitVec 1) :
    (s.withTypeFlag y f).dat = s.dat := rfl

@[simp] theorem State.withTypeFlag_params (s : State) (y f : BitVec 1) :
    (s.withTypeFlag y f).params = s.params := rfl

@[simp] theorem State.withTypeFlag_pending (s : State) (y f : BitVec 1) :
    (s.withTypeFlag y f).pending = s.pending := rfl

@[simp] theorem State.withTypeFlag_reply (s : State) (y f : BitVec 1) :
    (s.withTypeFlag y f).reply = s.reply := rfl

@[simp] theorem State.withTypeFlag_resets (s : State) (y f : BitVec 1) :
    (s.withTypeFlag y f).resets = s.resets := rfl

/-! ### withLength_pkt -/

@[simp] theorem State.withLength_pkt_regs (s : State) (n : Nat) :
    (s.withLength .pkt n).regs = { s.regs with pktLen := BitVec.ofNat 32 n } := rfl

@[simp] theorem State.withLength_pkt_pkt (s : State) (n : Nat) :
    (s.withLength .pkt n).pkt = s.pkt := rfl

@[simp] theorem State.withLength_pkt_dat (s : State) (n : Nat) :
    (s.withLength .pkt n).dat = s.dat := rfl

@[simp] theorem State.withLength_pkt_params (s : State) (n : Nat) :
    (s.withLength .pkt n).params = s.params := rfl

@[simp] theorem State.withLength_pkt_pending (s : State) (n : Nat) :
    (s.withLength .pkt n).pending = s.pending := rfl

@[simp] theorem State.withLength_pkt_reply (s : State) (n : Nat) :
    (s.withLength .pkt n).reply = s.reply := rfl

@[simp] theorem State.withLength_pkt_resets (s : State) (n : Nat) :
    (s.withLength .pkt n).resets = s.resets := rfl

/-! ### withLength_dat -/

@[simp] theorem State.withLength_dat_regs (s : State) (n : Nat) :
    (s.withLength .dat n).regs = { s.regs with datLen := BitVec.ofNat 32 n } := rfl

@[simp] theorem State.withLength_dat_pkt (s : State) (n : Nat) :
    (s.withLength .dat n).pkt = s.pkt := rfl

@[simp] theorem State.withLength_dat_dat (s : State) (n : Nat) :
    (s.withLength .dat n).dat = s.dat := rfl

@[simp] theorem State.withLength_dat_params (s : State) (n : Nat) :
    (s.withLength .dat n).params = s.params := rfl

@[simp] theorem State.withLength_dat_pending (s : State) (n : Nat) :
    (s.withLength .dat n).pending = s.pending := rfl

@[simp] theorem State.withLength_dat_reply (s : State) (n : Nat) :
    (s.withLength .dat n).reply = s.reply := rfl

@[simp] theorem State.withLength_dat_resets (s : State) (n : Nat) :
    (s.withLength .dat n).resets = s.resets := rfl

/-! ### withBuffer_pkt -/

@[simp] theorem State.withBuffer_pkt_regs (s : State) (m : Memory) :
    (s.withBuffer .pkt m).regs = s.regs := rfl

@[simp] theorem State.withBuffer_pkt_pkt (s : State) (m : Memory) :
    (s.withBuffer .pkt m).pkt = m := rfl

@[simp] theorem State.withBuffer_pkt_dat (s : State) (m : Memory) :
    (s.withBuffer .pkt m).dat = s.dat := rfl

@[simp] theorem State.withBuffer_pkt_params (s : State) (m : Memory) :
    (s.withBuffer .pkt m).params = s.params := rfl

@[simp] theorem State.withBuffer_pkt_pending (s : State) (m : Memory) :
    (s.withBuffer .pkt m).pending = s.pending := rfl

@[simp] theorem State.withBuffer_pkt_reply (s : State) (m : Memory) :
    (s.withBuffer .pkt m).reply = s.reply := rfl

@[simp] theorem State.withBuffer_pkt_resets (s : State) (m : Memory) :
    (s.withBuffer .pkt m).resets = s.resets := rfl

/-! ### withBuffer_dat -/

@[simp] theorem State.withBuffer_dat_regs (s : State) (m : Memory) :
    (s.withBuffer .dat m).regs = s.regs := rfl

@[simp] theorem State.withBuffer_dat_pkt (s : State) (m : Memory) :
    (s.withBuffer .dat m).pkt = s.pkt := rfl

@[simp] theorem State.withBuffer_dat_dat (s : State) (m : Memory) :
    (s.withBuffer .dat m).dat = m := rfl

@[simp] theorem State.withBuffer_dat_params (s : State) (m : Memory) :
    (s.withBuffer .dat m).params = s.params := rfl

@[simp] theorem State.withBuffer_dat_pending (s : State) (m : Memory) :
    (s.withBuffer .dat m).pending = s.pending := rfl

@[simp] theorem State.withBuffer_dat_reply (s : State) (m : Memory) :
    (s.withBuffer .dat m).reply = s.reply := rfl

@[simp] theorem State.withBuffer_dat_resets (s : State) (m : Memory) :
    (s.withBuffer .dat m).resets = s.resets := rfl

/-! ### writeByte_pkt -/

@[simp] theorem State.writeByte_pkt_regs (s : State) (i : Nat) (v : Byte) :
    (s.writeByte .pkt i v).regs = s.regs := rfl

@[simp] theorem State.writeByte_pkt_pkt (s : State) (i : Nat) (v : Byte) :
    (s.writeByte .pkt i v).pkt = s.pkt.write i v := rfl

@[simp] theorem State.writeByte_pkt_dat (s : State) (i : Nat) (v : Byte) :
    (s.writeByte .pkt i v).dat = s.dat := rfl

@[simp] theorem State.writeByte_pkt_params (s : State) (i : Nat) (v : Byte) :
    (s.writeByte .pkt i v).params = s.params := rfl

@[simp] theorem State.writeByte_pkt_pending (s : State) (i : Nat) (v : Byte) :
    (s.writeByte .pkt i v).pending = s.pending := rfl

@[simp] theorem State.writeByte_pkt_reply (s : State) (i : Nat) (v : Byte) :
    (s.writeByte .pkt i v).reply = s.reply := rfl

@[simp] theorem State.writeByte_pkt_resets (s : State) (i : Nat) (v : Byte) :
    (s.writeByte .pkt i v).resets = s.resets := rfl

/-! ### writeByte_dat -/

@[simp] theorem State.writeByte_dat_regs (s : State) (i : Nat) (v : Byte) :
    (s.writeByte .dat i v).regs = s.regs := rfl

@[simp] theorem State.writeByte_dat_pkt (s : State) (i : Nat) (v : Byte) :
    (s.writeByte .dat i v).pkt = s.pkt := rfl

@[simp] theorem State.writeByte_dat_dat (s : State) (i : Nat) (v : Byte) :
    (s.writeByte .dat i v).dat = s.dat.write i v := rfl

@[simp] theorem State.writeByte_dat_params (s : State) (i : Nat) (v : Byte) :
    (s.writeByte .dat i v).params = s.params := rfl

@[simp] theorem State.writeByte_dat_pending (s : State) (i : Nat) (v : Byte) :
    (s.writeByte .dat i v).pending = s.pending := rfl

@[simp] theorem State.writeByte_dat_reply (s : State) (i : Nat) (v : Byte) :
    (s.writeByte .dat i v).reply = s.reply := rfl

@[simp] theorem State.writeByte_dat_resets (s : State) (i : Nat) (v : Byte) :
    (s.writeByte .dat i v).resets = s.resets := rfl

/-! ### put_pkt -/

@[simp] theorem State.put_pkt_regs (s : State) (out : Bytes) :
    (s.put .pkt out).regs = { s.regs with pktLen := BitVec.ofNat 32 out.length } := rfl

@[simp] theorem State.put_pkt_pkt (s : State) (out : Bytes) :
    (s.put .pkt out).pkt = s.pkt.overwrite out := rfl

@[simp] theorem State.put_pkt_dat (s : State) (out : Bytes) : (s.put .pkt out).dat = s.dat := rfl

@[simp] theorem State.put_pkt_params (s : State) (out : Bytes) :
    (s.put .pkt out).params = s.params := rfl

@[simp] theorem State.put_pkt_pending (s : State) (out : Bytes) :
    (s.put .pkt out).pending = s.pending := rfl

@[simp] theorem State.put_pkt_reply (s : State) (out : Bytes) :
    (s.put .pkt out).reply = s.reply := rfl

@[simp] theorem State.put_pkt_resets (s : State) (out : Bytes) :
    (s.put .pkt out).resets = s.resets := rfl

/-! ### put_dat -/

@[simp] theorem State.put_dat_regs (s : State) (out : Bytes) :
    (s.put .dat out).regs = { s.regs with datLen := BitVec.ofNat 32 out.length } := rfl

@[simp] theorem State.put_dat_pkt (s : State) (out : Bytes) : (s.put .dat out).pkt = s.pkt := rfl

@[simp] theorem State.put_dat_dat (s : State) (out : Bytes) :
    (s.put .dat out).dat = s.dat.overwrite out := rfl

@[simp] theorem State.put_dat_params (s : State) (out : Bytes) :
    (s.put .dat out).params = s.params := rfl

@[simp] theorem State.put_dat_pending (s : State) (out : Bytes) :
    (s.put .dat out).pending = s.pending := rfl

@[simp] theorem State.put_dat_reply (s : State) (out : Bytes) :
    (s.put .dat out).reply = s.reply := rfl

@[simp] theorem State.put_dat_resets (s : State) (out : Bytes) :
    (s.put .dat out).resets = s.resets := rfl

/-! ### putPacket -/

@[simp] theorem State.putPacket_regs (s : State) (y f : BitVec 1) (p : Bytes) :
    (s.putPacket y f p).regs =
      { s.regs with
        pktLen := BitVec.ofNat 32 (packetBytes (s.regs.header y f (p.length + s.regs.pecLen - 1)) p s.regs.pec).length
        dlen := BitVec.ofNat 16 (p.length + s.regs.pecLen - 1) } := rfl

@[simp] theorem State.putPacket_pkt (s : State) (y f : BitVec 1) (p : Bytes) :
    (s.putPacket y f p).pkt =
      s.pkt.overwrite
        (packetBytes (s.regs.header y f (p.length + s.regs.pecLen - 1)) p s.regs.pec) := rfl

@[simp] theorem State.putPacket_dat (s : State) (y f : BitVec 1) (p : Bytes) :
    (s.putPacket y f p).dat = s.dat := rfl

@[simp] theorem State.putPacket_params (s : State) (y f : BitVec 1) (p : Bytes) :
    (s.putPacket y f p).params = s.params := rfl

@[simp] theorem State.putPacket_pending (s : State) (y f : BitVec 1) (p : Bytes) :
    (s.putPacket y f p).pending = s.pending := rfl

@[simp] theorem State.putPacket_reply (s : State) (y f : BitVec 1) (p : Bytes) :
    (s.putPacket y f p).reply = s.reply := rfl

@[simp] theorem State.putPacket_resets (s : State) (y f : BitVec 1) (p : Bytes) :
    (s.putPacket y f p).resets = s.resets := rfl

/-! ### answer -/

@[simp] theorem State.answer_regs (s : State) (v : Nat) : (s.answer v).regs = s.regs := rfl

@[simp] theorem State.answer_pkt (s : State) (v : Nat) : (s.answer v).pkt = s.pkt := rfl

@[simp] theorem State.answer_dat (s : State) (v : Nat) : (s.answer v).dat = s.dat := rfl

@[simp] theorem State.answer_params (s : State) (v : Nat) : (s.answer v).params = s.params := rfl

@[simp] theorem State.answer_pending (s : State) (v : Nat) : (s.answer v).pending = s.pending := rfl

@[simp] theorem State.answer_reply (s : State) (v : Nat) : (s.answer v).reply = some v := rfl

@[simp] theorem State.answer_resets (s : State) (v : Nat) : (s.answer v).resets = s.resets := rfl

end Sys2Proof.Machine
end

