-- ==== Sys2Proof/Laws/Buffers.lean ====
section
/-! SUPPORT. What a buffer byte reads as after each operation on a buffer (10_state.md R45). -/

namespace Sys2Proof.Machine

/-- A byte depends on the buffer's contents and the number of resets only. -/
theorem State.byteAt_congr {s t : State} {b : BufSel} (hb : t.buffer b = s.buffer b)
    (hr : t.resets = s.resets) (i : Nat) : t.byteAt b i = s.byteAt b i := by
  simp [State.byteAt, hb, hr]

@[simp] theorem State.byteAt_complete (s : State) (w : CmdWord) (b : BufSel) (i : Nat) :
    (s.complete w).byteAt b i = s.byteAt b i := by
  cases b <;> rfl

@[simp] theorem State.byteAt_raise (s : State) (w : CmdWord) (e : Err) (b : BufSel) (i : Nat) :
    (s.raise w e).byteAt b i = s.byteAt b i := by
  cases b <;> rfl

@[simp] theorem State.byteAt_withVfail (s : State) (m : Mask) (b : BufSel) (i : Nat) :
    (s.withVfail m).byteAt b i = s.byteAt b i := by
  cases b <;> rfl

@[simp] theorem State.byteAt_withResult (s : State) (y : Bool) (b : BufSel) (i : Nat) :
    (s.withResult y).byteAt b i = s.byteAt b i := by
  cases b <;> rfl

@[simp] theorem State.byteAt_withCrc (s : State) (c : BitVec 16) (b : BufSel) (i : Nat) :
    (s.withCrc c).byteAt b i = s.byteAt b i := by
  cases b <;> rfl

@[simp] theorem State.byteAt_withTypeFlag (s : State) (y f : BitVec 1) (b : BufSel) (i : Nat) :
    (s.withTypeFlag y f).byteAt b i = s.byteAt b i := by
  cases b <;> rfl

@[simp] theorem State.byteAt_withLength (s : State) (c : BufSel) (n : Nat) (b : BufSel) (i : Nat) :
    (s.withLength c n).byteAt b i = s.byteAt b i := by
  cases b <;> cases c <;> rfl

/-- A record update of the registers alone leaves every byte alone. -/
@[simp] theorem State.byteAt_regs (s : State) (r : Regs) (b : BufSel) (i : Nat) :
    ({ s with regs := r }).byteAt b i = s.byteAt b i := by
  cases b <;> rfl

/-- Reading a byte after writing one. -/
theorem State.byteAt_writeByte (s : State) (b c : BufSel) (i j : Nat) (v : Byte) :
    (s.writeByte b i v).byteAt c j = if c = b ∧ j = i then v else s.byteAt c j := by
  cases b <;> cases c <;>
    simp [State.byteAt, State.writeByte, State.withBuffer, State.buffer, Memory.written_write] <;>
    split <;> rfl

/-- Reading a byte after `put`: the sequence below its length, the old bytes from there on, and nothing
else changes. -/
theorem State.byteAt_put (s : State) (b c : BufSel) (out : Bytes) (j : Nat) :
    (s.put b out).byteAt c j =
      if h : c = b ∧ j < out.length then out[j]'h.2 else s.byteAt c j := by
  have key (m : Memory) (d : Byte) :
      ((m.overwrite out).written j).getD d =
        if h : j < out.length then out[j] else (m.written j).getD d := by
    rw [Memory.written_overwrite]
    split <;> simp_all
  cases b <;> cases c <;>
    simp [State.byteAt, State.put, State.withBuffer, State.withLength, State.buffer, key]

@[simp] theorem State.length_slice (s : State) (b : BufSel) (off n : Nat) :
    (s.slice b off n).length = n := by
  induction n generalizing off with
  | zero => rfl
  | succ n ih => simp [State.slice, ih]

@[simp] theorem State.length_valid (s : State) (b : BufSel) : (s.valid b).length = s.lengthOf b := by
  simp [State.valid]

theorem State.getElem_slice (s : State) (b : BufSel) (off n i : Nat)
    (h : i < (s.slice b off n).length) : (s.slice b off n)[i] = s.byteAt b (off + i) := by
  induction n generalizing off i with
  | zero => simp [State.slice] at h
  | succ n ih =>
    cases i with
    | zero => rfl
    | succ i =>
      simp only [State.slice, List.getElem_cons_succ]
      rw [ih]
      congr 1
      omega

/-- Two slices are equal when their bytes are. -/
theorem State.slice_congr {s t : State} {b : BufSel} {off n : Nat}
    (h : ∀ i, off ≤ i → i < off + n → t.byteAt b i = s.byteAt b i) :
    t.slice b off n = s.slice b off n := by
  apply List.ext_getElem (by simp)
  intro i h1 h2
  simp only [State.length_slice] at h1
  rw [State.getElem_slice, State.getElem_slice]
  exact h _ (by omega) (by omega)

/-- A slice of the bytes `put` has just laid down. -/
theorem State.slice_put (s : State) (b : BufSel) (out : Bytes) (off n : Nat)
    (h : off + n ≤ out.length) : (s.put b out).slice b off n = (out.drop off).take n := by
  apply List.ext_getElem (by simp; omega)
  intro i h1 h2
  simp only [State.length_slice] at h1
  rw [State.getElem_slice, State.byteAt_put]
  have : off + i < out.length := by omega
  simp [this]

end Sys2Proof.Machine
end

