-- ==== Sys2Proof/Laws/Bytes.lean ====
section
/-! SUPPORT. Big-endian images and the lengths of the wire formats (00_scope.md R12, 41_cuc.md R126). -/

namespace Sys2Proof.Machine

@[simp] theorem length_be (n v : Nat) : (be n v).length = n := by
  induction n with
  | zero => rfl
  | succ n ih => simp [be, ih]

theorem beValFrom_append (v : Nat) (s t : Bytes) :
    beValFrom v (s ++ t) = beValFrom (beValFrom v s) t := by
  induction s generalizing v with
  | nil => rfl
  | cons b s ih => exact ih _

theorem beValFrom_eq (v : Nat) (s : Bytes) : beValFrom v s = v * 256 ^ s.length + beVal s := by
  induction s generalizing v with
  | nil => simp [beValFrom, beVal]
  | cons b s ih =>
    simp only [beVal, beValFrom, List.length_cons]
    rw [ih, ih (0 * 256 + b.toNat), pow_succ]
    ring

/-- The value of a sequence fits its bytes: a decoded field cannot fail a range check. -/
theorem beVal_lt (s : Bytes) : beVal s < 256 ^ s.length := by
  induction s with
  | nil => simp [beVal, beValFrom]
  | cons b s ih =>
    have hb := b.isLt
    have e : beVal (b :: s) = b.toNat * 256 ^ s.length + beVal s := by
      show beValFrom (0 * 256 + b.toNat) s = _
      rw [beValFrom_eq]
      simp
    rw [e, List.length_cons, pow_succ]
    nlinarith [Nat.pow_pos (n := s.length) (show 0 < 256 by decide)]

@[simp] theorem length_hdrPack (h : Header) : (hdrPack h).length = 6 := by simp [hdrPack]

@[simp] theorem length_pecBytes (c : BitVec 16) : (pecBytes c).length = 2 := by simp [pecBytes]

@[simp] theorem length_pfEnc (basic frac tcid : Nat) :
    (pfEnc basic frac tcid).length = if twoOctets basic frac then 2 else 1 := by
  unfold pfEnc
  split <;> simp_all

theorem length_cucEnc (hasp : Bool) (basic frac tcid sec frc : Nat) :
    (cucEnc hasp basic frac tcid sec frc).length = pfieldLen hasp basic frac + basic + frac := by
  cases hasp <;> simp [cucEnc, pfieldLen]
  omega

theorem length_packetBytes (h : Header) (p : Bytes) (pec : Bool) :
    (packetBytes h p pec).length = 6 + p.length + (if pec then 2 else 0) := by
  cases pec
  · simp [packetBytes]
  · simp [packetBytes]
    omega

theorem crcFrom_append (c : BitVec 16) (s t : Bytes) :
    crcFrom c (s ++ t) = crcFrom (crcFrom c s) t := by
  induction s generalizing c with
  | nil => rfl
  | cons b s ih => exact ih _

end Sys2Proof.Machine
end

