-- ==== Sys2Proof/Laws/Ends.lean ====
section
/-! SUPPORT. How a meaning, a command and a step can end: one lemma for each shared operation, which proofs
cite instead of unfolding it. -/

namespace Sys2Proof.Machine

@[simp] theorem finish_ok (w : CmdWord) (s t : State) :
    finish w s (.ok t) = .next (t.complete w) := rfl

@[simp] theorem finish_error (w : CmdWord) (s : State) (e : Err) :
    finish w s (.error e) = .next (s.raise w e) := rfl

/-- Everything `finish` can do: an operation completes or raises, and never stops the machine. -/
theorem finish_cases (w : CmdWord) (s : State) (r : Except Err State) :
    (∃ t, r = .ok t ∧ finish w s r = .next (t.complete w))
      ∨ (∃ e, r = .error e ∧ finish w s r = .next (s.raise w e)) := by
  cases r with
  | ok t => exact .inl ⟨t, rfl, rfl⟩
  | error e => exact .inr ⟨e, rfl, rfl⟩

/-- Everything `command` can do. -/
theorem command_cases (w : CmdWord) (s : State) :
    (∃ i, decode w = .ok i ∧ command w s = exec i s)
      ∨ (∃ d, decode w = .error d ∧ command w s = .next (s.raise w (.illegal w))) := by
  unfold command
  cases h : decode w with
  | ok i => exact .inl ⟨i, rfl, rfl⟩
  | error d => exact .inr ⟨d, rfl, rfl⟩

/-- Everything a host register write can do. -/
theorem regWrite_cases (n v : Nat) (s : State) :
    (regWrite n v s = .next s)
      ∨ (regWrite n v s = command (BitVec.ofNat 16 v) s)
      ∨ (∃ r, r.access = .readWrite
          ∧ regWrite n v s = .next { s with regs := s.regs.set r (BitVec.ofNat r.width v) })
      ∨ (regWrite n v s = .fault (.valueTooWide n)) := by
  unfold regWrite
  cases Reg.ofNumber n with
  | none => exact .inl rfl
  | some r =>
    simp only
    split
    · exact .inl rfl
    · split
      · exact .inr (.inl rfl)
      · exact .inr (.inr (.inr rfl))
    · next h =>
      split
      · exact .inr (.inr (.inl ⟨r, h, rfl⟩))
      · exact .inr (.inr (.inr rfl))

theorem step_idle {s : State} (h : s.pending = []) : step s = .next s := by
  simp [step, nextTransaction, h]

theorem step_event {s : State} {e : HostEvent} {rest : List HostEvent} (h : s.pending = e :: rest) :
    step s = hostEvent e { s with pending := rest } := by
  simp [step, nextTransaction, h]

/-- Every register number is listed under its own number (10_state.md R47). -/
@[simp] theorem Reg.ofNumber_number (r : Reg) : Reg.ofNumber r.number = some r := by
  cases r <;> rfl

@[simp] theorem Regs.get_set_same (x : Regs) (r : Reg) (v : BitVec r.width) :
    (x.set r v).get r = v := by
  cases r <;> rfl

end Sys2Proof.Machine
end

