-- ==== Sys2Proof/Laws/Errors.lean ====
section
/-! SUPPORT. What completing and raising leave, in the terms claims are made in. -/

namespace Sys2Proof.Machine

theorem statusWord_zero (w : CmdWord) : statusWord w 0 = CmdOp w ++ 0#8 := by
  apply BitVec.eq_of_toNat_eq
  simp only [statusWord, CmdOp, BitVec.toNat_append, BitVec.toNat_ofNat, BitVec.toNat_ofBool]
  simp [Nat.shiftLeft_eq]
  omega

theorem statusWord_err (w : CmdWord) {code : Nat} (h : code ≠ 0) :
    statusWord w code = CmdOp w ++ 0#3 ++ 1#1 ++ BitVec.ofNat 4 code := by
  have : BitVec.ofBool (code != 0) = 1#1 := by
    rw [show (code != 0) = true by simpa using h]
    rfl
  simp [statusWord, CmdOp, this]

theorem Err.code_pos (e : Err) : 1 ≤ e.code := by cases e <;> simp [Err.code]

theorem Err.code_le (e : Err) : e.code ≤ 8 := by cases e <;> simp [Err.code]

theorem completed_complete (w : CmdWord) (s : State) : Completed w (s.complete w) :=
  ⟨rfl, statusWord_zero w, rfl⟩

theorem raised_raise (w : CmdWord) (e : Err) (s : State) :
    Raised w e.code e.info.toNat s (s.raise w e) := by
  refine ⟨rfl, statusWord_err w (by have := Err.code_pos e; omega), ?_, by simp⟩
  simp only [State.raise_regs]
  congr 1
  cases e <;> rfl

/-- A raise changes four registers and nothing else. -/
theorem keeps_raise (w : CmdWord) (e : Err) (s : State) :
    Keeps [.cmd, .status, .errlog, .errinfo] [] s (s.raise w e) := by
  refine ⟨fun r hr => ?_, fun b _ i => by simp, rfl, rfl, rfl, rfl⟩
  cases r <;> first | rfl | simp at hr

theorem raisesPlainly_raise (w : CmdWord) (e : Err) (s : State) :
    RaisesPlainly w e.code e.info.toNat s (s.raise w e) :=
  ⟨raised_raise w e s, keeps_raise w e s⟩

theorem raisesWithMask_raise (w : CmdWord) (e : Err) (m : Mask) (s : State) :
    RaisesWithMask w e.code e.info.toNat m s ((s.withVfail m).raise w e) := by
  refine ⟨raised_raise w e (s.withVfail m), rfl, fun r hr => ?_, fun b _ i => by simp, rfl, rfl, rfl, rfl⟩
  cases r <;> first | rfl | simp at hr

theorem errorCode_of_raised {w : CmdWord} {code info : Nat} {s t : State}
    (h : Raised w code info s t) (hc : code < 16) : errorCode t = code := by
  have low {n : Nat} (x : BitVec n) (y : BitVec 4) : ((x ++ y).extractLsb' 0 4).toNat = y.toNat := by
    have := y.isLt
    simp only [BitVec.extractLsb'_toNat, BitVec.toNat_append, Nat.shiftRight_zero]
    rw [← Nat.shiftLeft_add_eq_or_of_lt y.isLt, Nat.shiftLeft_eq]
    omega
  unfold errorCode
  rw [h.2.1, low]
  simp
  omega

theorem errorCode_of_completed {w : CmdWord} {t : State} (h : Completed w t) : errorCode t = 0 := by
  unfold errorCode
  rw [h.2.1]
  simp only [BitVec.extractLsb'_toNat, BitVec.toNat_append, Nat.shiftRight_zero]
  rw [← Nat.shiftLeft_add_eq_or_of_lt (0#8).isLt, Nat.shiftLeft_eq]
  simp
  omega

theorem errorCode_raise (w : CmdWord) (s : State) (e : Err) : errorCode (s.raise w e) = e.code :=
  errorCode_of_raised (raised_raise w e s) (by have := Err.code_le e; omega)

theorem errorCode_complete (w : CmdWord) (s : State) : errorCode (s.complete w) = 0 :=
  errorCode_of_completed (completed_complete w s)

/-- A host write of a command word to CMD hands the word to `command`. -/
theorem step_command {s : State} {rest : List HostEvent} {w : CmdWord}
    (hp : s.pending = .regWrite 0 w.toNat :: rest) : step s = command w { s with pending := rest } := by
  rw [step_event hp]
  have := w.isLt
  simp [hostEvent, regWrite, Reg.ofNumber, Reg.access, this]

theorem putTime_keeps (x : Regs) (f : TimeField) (r : Reg)
    (h : r ∉ [Reg.cucBasic, .cucFrac, .cucTcid, .cucSec, .cucFrc, .cucUsed]) :
    (x.putTime f).get r = x.get r := by
  unfold Regs.putTime
  split <;> cases r <;> first | rfl | simp at h

theorem putFrame_keeps (x : Regs) (f : Frame) (r : Reg)
    (h : r ∉ [Reg.ver, .ptype, .shf, .apid, .seqf, .seqc, .dlen, .pecRx]) :
    (x.putFrame f).get r = x.get r := by
  cases r <;> first | rfl | simp at h

theorem byteAt_putPacket_dat (s : State) (typ shf : BitVec 1) (p : Bytes) (i : Nat) :
    (s.putPacket typ shf p).byteAt .dat i = s.byteAt .dat i := by
  have : (s.putPacket typ shf p).byteAt .dat i =
      (s.put .pkt (packetBytes (s.regs.header typ shf (p.length + s.regs.pecLen - 1)) p
        s.regs.pec)).byteAt .dat i := rfl
  rw [this, State.byteAt_put, dif_neg (by simp)]

end Sys2Proof.Machine
end

