-- ==== Sys2Proof/Laws/Checks.lean ====
section
/-! SUPPORT. What the check masks show, and what a mask makes a PACK operation do. -/

namespace Sys2Proof.Machine

theorem getLsbD_flagBit (k : Nat) (b : Bool) (j : Nat) (hk : k < 32) :
    (flagBit k b).getLsbD j = (b && decide (j = k)) := by
  unfold flagBit
  cases b
  · simp
  · simp only [if_true, BitVec.getLsbD_twoPow, Bool.true_and]
    by_cases h : j = k
    · subst h
      simp [hk]
    · simp [h]
      omega

theorem getElem_flagBit (k : Nat) (b : Bool) (j : Nat) (hj : j < 32) (hk : k < 32) :
    (flagBit k b)[j] = (b && decide (j = k)) := by
  rw [← BitVec.getLsbD_eq_getElem hj, getLsbD_flagBit _ _ _ hk]

theorem fmtOk_iff (r : Regs) : r.fmtOk = true ↔ FormatFits r := by
  simp [Regs.fmtOk, fmtOk, FormatFits, and_assoc]

theorem hasP_eq (r : Regs) : r.hasP = decide (r.cucHasp = 1) := by
  rw [Bool.eq_iff_iff]
  simp [Regs.hasP]

theorem pec_iff (r : Regs) : r.pec = true ↔ r.hasPec = 1 := by simp [Regs.pec]

/-- No row of 45_validators.md R211 has a bit above 26. -/
theorem not_checkFails (s : State) (pl : Nat) (pf : Bool) {k : Nat} (h : 27 ≤ k) :
    ¬checkFails s pl pf k := by
  obtain ⟨j, rfl⟩ : ∃ j, k = j + 27 := ⟨k - 27, by omega⟩
  simp [checkFails]

/-- A mask shows the checks when it does so in its 27 bits and has no bit above them. -/
theorem shows_of_low {m : Mask} {ks : List Nat} {s : State} {pl : Nat} {pf : Bool}
    (h : ∀ k, k < 27 → (m.getLsbD k = true ↔ k ∈ ks ∧ checkFails s pl pf k))
    (h2 : ∀ k, 27 ≤ k → m.getLsbD k = false) : ShowsChecks m ks s pl pf := by
  intro k
  by_cases hk : k < 27
  · exact h k hk
  · have := not_checkFails s pl pf (Nat.le_of_not_lt hk)
    exact iff_of_false (by rw [h2 k (Nat.le_of_not_lt hk)]; decide) (fun x => this x.2)

theorem spMask_shows (s : State) : ShowsChecks (spMask s) spChecks s (spPayloadLen s.regs) false := by
  apply shows_of_low
  · intro k hk
    interval_cases k <;> simp [spMask, hdrChecks, lenChecks, getElem_flagBit, spChecks, checkFails]
  · intro k hk
    have hne : ∀ j, j < 27 → k ≠ j := fun j hj => by omega
    simp [spMask, hdrChecks, lenChecks, getLsbD_flagBit, hne]

theorem tcMask_shows (s : State) :
    ShowsChecks (tcMask s) tcCheckList s (tcPayloadLen s.regs) false := by
  apply shows_of_low
  · intro k hk
    interval_cases k <;>
      simp [tcMask, tcChecks, hdrChecks, lenChecks, getElem_flagBit, tcCheckList, checkFails,
        pusvAdvisory, optTooBig, and_assoc]
  · intro k hk
    have hne : ∀ j, j < 27 → k ≠ j := fun j hj => by omega
    simp [tcMask, tcChecks, hdrChecks, lenChecks, getLsbD_flagBit, pusvAdvisory, hne]

theorem timeChecks_shows (s : State) (pl : Nat) (n : Bool) :
    ShowsChecks (timeChecks n s.regs) cucCheckList s pl n := by
  apply shows_of_low
  · intro k hk
    interval_cases k <;> simp [timeChecks, getElem_flagBit, cucCheckList, checkFails, ← fmtOk_iff]
  · intro k hk
    have hne : ∀ j, j < 27 → k ≠ j := fun j hj => by omega
    simp [timeChecks, getLsbD_flagBit, hne]

theorem tmMask_shows (s : State) :
    ShowsChecks (tmMask s) tmCheckList s (tmPayloadLen s.regs) (s.regs.cucHasp = 1) := by
  apply shows_of_low
  · intro k hk
    interval_cases k <;>
      simp [tmMask, tmChecks, timeChecks, hdrChecks, lenChecks, getElem_flagBit, tmCheckList, checkFails,
        pusvAdvisory, optTooBig, and_assoc, ← fmtOk_iff, hasP_eq]
  · intro k hk
    have hne : ∀ j, j < 27 → k ≠ j := fun j hj => by omega
    simp [tmMask, tmChecks, timeChecks, hdrChecks, lenChecks, getLsbD_flagBit, pusvAdvisory, hne]

theorem mask_and_eq_zero_iff (m c : Mask) :
    m &&& c = 0 ↔ ∀ k, m.getLsbD k = true → c.getLsbD k = true → False := by
  constructor
  · intro h k h1 h2
    have := congrArg (BitVec.getLsbD · k) h
    simp [h1, h2] at this
  · intro h
    apply BitVec.eq_of_getLsbD_eq
    intro k hk
    have := h k
    cases h1 : m.getLsbD k <;> cases h2 : c.getLsbD k <;> simp_all

theorem mask_zero_iff {m : Mask} {ks : List Nat} {s : State} {pl : Nat} {pf : Bool}
    (h : ShowsChecks m ks s pl pf) : m = 0 ↔ ∀ k ∈ ks, ¬checkFails s pl pf k := by
  constructor
  · rintro rfl k hk hf
    have := (h k).2 ⟨hk, hf⟩
    simp at this
  · intro h1
    apply BitVec.eq_of_getLsbD_eq
    intro k hk
    cases e : m.getLsbD k
    · simp
    · exact absurd ((h k).1 e).2 (h1 _ ((h k).1 e).1)

theorem requiredPass_iff {m : Mask} {ks : List Nat} {s : State} {pl : Nat} {pf : Bool}
    (h : ShowsChecks m ks s pl pf) : requiredPass m = true ↔ ¬SomeRequiredFails ks s pl pf := by
  have hc : ∀ k, (0x00FFFFFF : Mask).getLsbD k = decide (k ≤ 23) := by
    intro k
    by_cases hk : k < 32
    · interval_cases k <;> rfl
    · rw [BitVec.getLsbD_of_ge _ _ (by omega)]
      simp
      omega
  simp only [requiredPass, beq_iff_eq, mask_and_eq_zero_iff, hc, SomeRequiredFails]
  constructor
  · rintro h1 ⟨k, hk, h23, hf⟩
    exact h1 k ((h k).2 ⟨hk, hf⟩) (by simpa using h23)
  · intro h1 k h2 h3
    exact h1 ⟨k, ((h k).1 h2).1, by simpa using h3, ((h k).1 h2).2⟩

/-- The constant of `pack_raise` is every required check but bits 18 and 22. -/
theorem getLsbD_packRange (k : Nat) :
    (0x00BBFFFF : Mask).getLsbD k = decide (k ≤ 23 ∧ k ≠ 18 ∧ k ≠ 22) := by
  by_cases hk : k < 32
  · interval_cases k <;> rfl
  · rw [BitVec.getLsbD_of_ge _ _ (by omega)]
    simp
    omega

/-- `pack_raise` returns exactly when no required check fails. -/
theorem packRaise_eq_none_iff {s : State} {m : Mask} {ks : List Nat} {pl : Nat} {pf : Bool}
    (hs : ShowsChecks m ks s pl pf) : packRaise s m = none ↔ ¬SomeRequiredFails ks s pl pf := by
  constructor
  · rintro h ⟨k, hk, h23, hf⟩
    have hb := (hs k).2 ⟨hk, hf⟩
    unfold packRaise at h
    split at h
    · cases h
    rename_i h18
    split at h
    · cases h
    rename_i hbb
    split at h
    · cases h
    rename_i h22
    rw [not_not, mask_and_eq_zero_iff] at hbb
    by_cases e : k = 18
    · exact h18 (e ▸ hb)
    · by_cases e2 : k = 22
      · exact h22 (e2 ▸ hb)
      · exact hbb k hb (by rw [getLsbD_packRange]; simp; omega)
  · intro hn
    have h : ∀ k, k ≤ 23 → m.getLsbD k = false := by
      intro k hk
      cases e : m.getLsbD k
      · rfl
      · exact absurd ⟨k, ((hs k).1 e).1, hk, ((hs k).1 e).2⟩ hn
    have hz : m &&& 0x00BBFFFF = 0 := by
      rw [mask_and_eq_zero_iff]
      intro k h1 h2
      rw [getLsbD_packRange] at h2
      simp at h2
      rw [h k h2.1] at h1
      cases h1
    simp only [packRaise, h 18 (by decide), h 22 (by decide), hz]
    simp

/-- The time checks raise nothing exactly when format and values fit. -/
theorem timeRaise_eq_none_iff {s : State} {n : Bool} :
    timeRaise (timeChecks n s.regs) = none ↔ TimeFits n s.regs := by
  have hs := timeChecks_shows s 0 n
  have hz := mask_zero_iff hs
  unfold timeRaise
  constructor
  · intro h
    split at h
    · cases h
    · split at h
      · cases h
      · rename_i h1 h2
        rw [not_not, hz] at h2
        simp [cucCheckList, checkFails] at h2
        obtain ⟨a, b, c, d⟩ := h2
        have e1 := c a
        have e2 := d a
        have p1 : 0 < 2 ^ (8 * s.regs.cucBasic.toNat) := Nat.pow_pos (by decide)
        have p2 : 0 < 2 ^ (8 * s.regs.cucFrac.toNat) := Nat.pow_pos (by decide)
        exact ⟨a, b, by omega, by omega⟩
  · rintro ⟨a, b, c, d⟩
    have : timeChecks n s.regs = 0 := by
      rw [hz]
      simp [cucCheckList, checkFails]
      exact ⟨a, b, fun _ => by omega, fun _ => by omega⟩
    rw [this]
    rfl

end Sys2Proof.Machine
end

