-- ==== Sys2Proof/Laws/Parse.lean ====
section
/-! SUPPORT. Everything the decoders of a P-field, a time field and a packet can do. -/

namespace Sys2Proof.Machine

theorem beVal_cons (b : Byte) (s : Bytes) : beVal (b :: s) = b.toNat * 256 ^ s.length + beVal s := by
  show beValFrom (0 * 256 + b.toNat) s = _
  rw [beValFrom_eq]
  simp

theorem getLsbD_seven (x : Byte) : x.getLsbD 7 = decide (128 ≤ x.toNat) := by
  have := x.isLt
  rw [Bool.eq_iff_iff]
  simp [BitVec.getLsbD, Nat.testBit_eq_decide_div_mod_eq]
  omega

theorem octet_zero (a : Byte) (s : Bytes) : octet (a :: s) 0 = a.toNat := rfl

theorem octet_one (a b : Byte) (s : Bytes) : octet (a :: b :: s) 1 = b.toNat := rfl

/-- Everything `pfDec` can do (41_cuc.md R124). -/
theorem pfDec_cases (s : Bytes) :
    (∃ p, pfDec s = .ok p ∧ pfieldError s = none
        ∧ 1 ≤ p.basic ∧ p.basic ≤ 7 ∧ p.frac ≤ 10 ∧ p.n ≤ 2 ∧ p.n ≤ s.length
        ∧ p.basic = wireBasic s ∧ p.frac = wireFrac s ∧ p.tcid.toNat = wireTcid s
        ∧ p.n = wireOctets s ∧ p.o1.toNat = octet s 0
        ∧ p.o2.toNat = (if wireOctets s = 2 then octet s 1 else 0))
      ∨ (∃ e, pfDec s = .error e ∧ pfieldError s = some (e.code, e.info.toNat)) := by
  match s with
  | [] => exact .inr ⟨_, rfl, rfl⟩
  | [_] => exact .inr ⟨_, rfl, rfl⟩
  | o1 :: o2 :: s =>
    have h1 := o1.isLt
    have h2 := o2.isLt
    simp only [pfDec, pfieldError, getLsbD_seven, wireBasic, wireFrac, wireTcid, wireOctets, octet_zero,
      octet_one]
    by_cases c1 : 128 ≤ o1.toNat
    · by_cases c2 : 128 ≤ o2.toNat
      · right
        simp [c1, c2, Err.code, Err.info]
      · left
        simp only [c1, c2]
        refine ⟨_, rfl, by simp, ?_⟩
        simp [BitVec.extractLsb'_toNat, Nat.shiftRight_eq_div_pow]
        omega
    · left
      simp only [c1]
      refine ⟨_, rfl, by simp, ?_⟩
      simp [BitVec.extractLsb'_toNat, Nat.shiftRight_eq_div_pow]
      omega

theorem hasp_cases (r : Regs) : r.cucHasp = 1 ∨ r.cucHasp = 0 := by
  have h := r.cucHasp.isLt
  rcases (show r.cucHasp.toNat = 1 ∨ r.cucHasp.toNat = 0 by omega) with h | h
  · exact .inl (BitVec.eq_of_toNat_eq h)
  · exact .inr (BitVec.eq_of_toNat_eq h)

/-- What a time field's stages do once the widths are known (41_cuc.md R128). -/
theorem tfieldDec_cases (s : Bytes) (off basic frac : Nat) (tcid : Option (BitVec 3)) :
    (s.length < off + basic ∧ tfieldDec s off basic frac tcid = .error (.malformed .sec))
      ∨ (off + basic ≤ s.length ∧ s.length < off + basic + frac
          ∧ tfieldDec s off basic frac tcid = .error (.malformed .frc))
      ∨ (off + basic + frac ≤ s.length
          ∧ tfieldDec s off basic frac tcid =
            .ok
              { basic := basic
                frac := frac
                tcid := tcid
                sec := beVal ((s.drop off).take basic)
                frc := beVal ((s.drop (off + basic)).take frac)
                used := off + basic + frac }) := by
  unfold tfieldDec
  split
  · exact .inl ⟨by assumption, rfl⟩
  · split
    · exact .inr (.inl ⟨by omega, by assumption, rfl⟩)
    · exact .inr (.inr ⟨by omega, rfl⟩)

/-- Everything `cucDec` can do with the CUC registers (41_cuc.md R128). -/
theorem cucDec_cases (r : Regs) (b : Bytes) :
    (∃ t, cucDec b r.hasP r.cucBasic.toNat r.cucFrac.toNat = .ok t ∧ timeError r b = none
        ∧ t.basic = timeBasic r b ∧ t.frac = timeFrac r b ∧ t.used = timeUsed r b
        ∧ 1 ≤ t.basic ∧ t.basic ≤ 7 ∧ t.frac ≤ 10 ∧ t.used ≤ b.length ∧ t.used ≤ 19
        ∧ t.sec = beVal ((b.drop (timeOffset r b)).take (timeBasic r b))
        ∧ t.frc = beVal ((b.drop (timeOffset r b + timeBasic r b)).take (timeFrac r b))
        ∧ (r.cucHasp = 1 → ∃ c, t.tcid = some c ∧ c.toNat = wireTcid b)
        ∧ (r.cucHasp = 0 → t.tcid = none))
      ∨ (∃ e, cucDec b r.hasP r.cucBasic.toNat r.cucFrac.toNat = .error e
          ∧ timeError r b = some (e.code, e.info.toNat)) := by
  have hu : timeUsed r b = timeOffset r b + timeBasic r b + timeFrac r b := rfl
  rcases hasp_cases r with h | h
  · have hp : r.hasP = true := by simp [hasP_eq, h]
    have e1 : timeOffset r b = wireOctets b := by simp [timeOffset, h]
    have e2 : timeBasic r b = wireBasic b := by simp [timeBasic, h]
    have e3 : timeFrac r b = wireFrac b := by simp [timeFrac, h]
    have h10 : ¬r.cucHasp = 0 := by
      rw [h]
      decide
    simp only [cucDec, hp, if_true]
    rcases pfDec_cases b with ⟨p, hpd, hpe, a1, a2, a3, a4, -, b1, b2, b3, b4, -⟩ | ⟨e, hpd, hpe⟩
    · have hte : timeError r b =
          (if b.length < timeOffset r b + timeBasic r b then some (1, 7)
            else if b.length < timeUsed r b then some (1, 8) else none) := by
        unfold timeError
        rw [if_neg (by simp [hpe]), if_neg (fun x => h10 x.1), if_neg (fun x => h10 x.1)]
      rw [hpd, hte, hu, e1, e2, e3, ← b1, ← b2, ← b4]
      dsimp only
      rcases tfieldDec_cases b p.n p.basic p.frac (some p.tcid) with ⟨c, k⟩ | ⟨c, c', k⟩ | ⟨c, k⟩
      · exact .inr ⟨_, k, by rw [if_pos c]; rfl⟩
      · exact .inr ⟨_, k, by rw [if_neg (by omega), if_pos c']; rfl⟩
      · refine .inl ⟨_, k, by rw [if_neg (by omega), if_neg (by omega)], rfl, rfl, rfl, a1, a2, a3, c, ?_,
          rfl, rfl, fun _ => ⟨_, rfl, b3⟩, fun x => absurd x h10⟩
        simp only
        omega
    · exact .inr ⟨e, by rw [hpd], by simp [timeError, h, hpe]⟩
  · have hp : r.hasP = false := by simp [hasP_eq, h]
    have e1 : timeOffset r b = 0 := by simp [timeOffset, h]
    have e2 : timeBasic r b = r.cucBasic.toNat := by simp [timeBasic, h]
    have e3 : timeFrac r b = r.cucFrac.toNat := by simp [timeFrac, h]
    have h10 : ¬r.cucHasp = 1 := by
      rw [h]
      decide
    have hx (x : BitVec 8) : x = 0xFF ↔ x.toNat = 0xFF :=
      ⟨fun h => by rw [h]; rfl, fun h => BitVec.eq_of_toNat_eq h⟩
    simp only [cucDec, hp, Bool.false_eq_true, if_false]
    by_cases c0 : r.cucBasic.toNat = 0xFF ∨ r.cucFrac.toNat = 0xFF
    · refine .inr ⟨.nowidth, by rw [if_pos c0], ?_⟩
      unfold timeError
      rw [if_neg (fun x => h10 x.1), if_pos ⟨h, by rw [hx, hx]; exact c0⟩]
      rfl
    · rw [if_neg c0]
      have c0' : ¬(r.cucHasp = 0 ∧ (r.cucBasic = 0xFF ∨ r.cucFrac = 0xFF)) := fun x =>
        c0 (by have := x.2; rw [hx, hx] at this; exact this)
      by_cases c1 : fmtOk r.cucBasic.toNat r.cucFrac.toNat = true
      · have c1' : 1 ≤ r.cucBasic.toNat ∧ r.cucBasic.toNat ≤ 7 ∧ r.cucFrac.toNat ≤ 10 := (fmtOk_iff r).1 c1
        have hte : timeError r b =
            (if b.length < timeOffset r b + timeBasic r b then some (1, 7)
              else if b.length < timeUsed r b then some (1, 8) else none) := by
          unfold timeError
          rw [if_neg (fun x => h10 x.1), if_neg c0', if_neg (fun x => x.2 c1')]
        rw [hte, if_neg (by simp [c1]), hu, e1, e2, e3]
        rcases tfieldDec_cases b 0 r.cucBasic.toNat r.cucFrac.toNat none with ⟨c, k⟩ | ⟨c, c', k⟩ | ⟨c, k⟩
        · exact .inr ⟨_, k, by rw [if_pos c]; rfl⟩
        · exact .inr ⟨_, k, by rw [if_neg (by omega), if_pos c']; rfl⟩
        · refine .inl ⟨_, k, by rw [if_neg (by omega), if_neg (by omega)], rfl, rfl, rfl, c1'.1, c1'.2.1,
            c1'.2.2, c, ?_, rfl, rfl, fun x => absurd x h10, fun _ => rfl⟩
          simp only
          omega
      · have c1' : ¬(1 ≤ r.cucBasic.toNat ∧ r.cucBasic.toNat ≤ 7 ∧ r.cucFrac.toNat ≤ 10) := fun x =>
          c1 ((fmtOk_iff r).2 x)
        refine .inr ⟨.timefmt .registers, by simp [c1], ?_⟩
        unfold timeError
        rw [if_neg (fun x => h10 x.1), if_neg c0', if_pos ⟨h, c1'⟩]
        rfl

/-- The fields `hdrUnpack` reads from the first six bytes of PKT (42_space_packet.md R151). -/
theorem hdrUnpack_pkt (s : State) :
    let h := hdrUnpack (s.slice .pkt 0 6)
    h.ver.toNat = (s.byteAt .pkt 0).toNat / 32
      ∧ h.typ.toNat = (s.byteAt .pkt 0).toNat / 16 % 2
      ∧ h.shf.toNat = (s.byteAt .pkt 0).toNat / 8 % 2
      ∧ h.apid.toNat = (s.byteAt .pkt 0).toNat % 8 * 256 + (s.byteAt .pkt 1).toNat
      ∧ h.seqf.toNat = (s.byteAt .pkt 2).toNat / 64
      ∧ h.seqc.toNat = (s.byteAt .pkt 2).toNat % 64 * 256 + (s.byteAt .pkt 3).toNat
      ∧ h.dl.toNat = declared s := by
  have b0 := (s.byteAt .pkt 0).isLt
  have b1 := (s.byteAt .pkt 1).isLt
  have b2 := (s.byteAt .pkt 2).isLt
  have b3 := (s.byteAt .pkt 3).isLt
  have b4 := (s.byteAt .pkt 4).isLt
  have b5 := (s.byteAt .pkt 5).isLt
  simp only [hdrUnpack, State.slice, beVal, beValFrom, declared, BitVec.extractLsb'_toNat, BitVec.toNat_ofNat,
    Nat.shiftRight_eq_div_pow, Nat.zero_add, Nat.reduceAdd]
  refine ⟨?_, ?_, ?_, ?_, ?_, ?_, ?_⟩ <;> omega

theorem pecLen_eq (r : Regs) : r.pecLen = if r.pec = true then 2 else 0 := rfl

/-- Everything `frameSplit` can do (42_space_packet.md R156). -/
theorem frameSplit_cases (s : State) :
    (∃ f, frameSplit s = .ok f ∧ frameError s = none
        ∧ f.hdr = hdrUnpack (s.slice .pkt 0 6) ∧ f.pl = payloadLen s
        ∧ (s.regs.pec = true →
            f.pec.toNat =
              (s.byteAt .pkt (6 + payloadLen s)).toNat * 256
                + (s.byteAt .pkt (6 + payloadLen s + 1)).toNat)
        ∧ (s.regs.pec = false → f.pec = 0)
        ∧ s.regs.pktLen.toNat = 6 + payloadLen s + s.regs.pecLen
        ∧ s.regs.pktLen.toNat ≤ s.params.pktCap ∧ payloadLen s ≤ 65536
        ∧ payloadLen s + s.regs.pecLen = declared s + 1)
      ∨ (∃ e, frameSplit s = .error e ∧ frameError s = some (e.code, e.info.toNat)) := by
  have hd := (hdrUnpack_pkt s).2.2.2.2.2.2
  have hdl : declared s < 65536 := by
    have h4 := (s.byteAt .pkt 4).isLt
    have h5 := (s.byteAt .pkt 5).isLt
    simp only [declared]
    omega
  unfold frameSplit frameError
  simp only [State.capacity, State.lengthOf, hd]
  split
  · exact .inr ⟨_, rfl, rfl⟩
  split
  · exact .inr ⟨_, rfl, rfl⟩
  split
  · exact .inr ⟨_, rfl, rfl⟩
  split
  · refine .inr ⟨_, rfl, ?_⟩
    simp [Err.code, Err.info]
    omega
  split
  · exact .inr ⟨_, rfl, rfl⟩
  · left
    have hpl : payloadLen s = declared s + 1 - s.regs.pecLen := rfl
    rename_i c1 c2 c3 c4 c5
    refine ⟨_, rfl, rfl, rfl, rfl, fun h => ?_, fun h => ?_, ?_⟩
    · have h2 : s.regs.pecLen = 2 := by rw [pecLen_eq, if_pos h]
      have e : 6 + declared s + 1 - 2 = 6 + payloadLen s := by
        rw [hpl, h2]
        have := c5
        simp [h] at this
        omega
      simp only [h, if_true, e, State.slice, beVal, beValFrom, BitVec.toNat_ofNat]
      have a := (s.byteAt .pkt (6 + payloadLen s)).isLt
      have b := (s.byteAt .pkt (6 + payloadLen s + 1)).isLt
      omega
    · simp [h]
    · have : s.regs.pecLen ≤ declared s + 1 := by
        rw [pecLen_eq]
        split
        · rename_i h
          simp [h] at c5
          omega
        · omega
      omega

end Sys2Proof.Machine
end

