-- ==== Sys2Proof/Laws/PerInstr.lean ====
section
/-! SUPPORT. A law of every instruction as syntax: its command word holds its opcode and its immediate, in
the fields of 30_encoding.md R80. -/

namespace Sys2Proof.Laws.OpcodeField

/-- Bits 15:8 of the command word are the operation's opcode, bits 7:0 its immediate (30_encoding.md R80,
R86). -/
def Statement (i : Instr) : Prop :=
  (encode i).extractLsb' 8 8 = opcodeOf i ∧ (encode i).extractLsb' 0 8 = immediateOf i

/-- A word put together from two bytes has them as its fields. -/
theorem fields (i : Instr) : Statement i := by
  unfold Statement encode
  constructor
  · ext k hk
    simp only [BitVec.getElem_extractLsb', BitVec.getLsbD_append]
    simp [BitVec.getLsbD_eq_getElem hk]
  · ext k hk
    simp only [BitVec.getElem_extractLsb', BitVec.getLsbD_append]
    simp [hk]

theorem sysNop : Statement .sysNop := fields _

theorem sysClrerr : Statement .sysClrerr := fields _

theorem sysReset : Statement .sysReset := fields _

theorem crcInit : Statement .crcInit := fields _

theorem crcByte (byte : Byte) : Statement (.crcByte byte) := fields _

theorem crcBuf (b : BufSel) : Statement (.crcBuf b) := fields _

theorem crcAppend : Statement .crcAppend := fields _

theorem crcCheck : Statement .crcCheck := fields _

theorem cucVal : Statement .cucVal := fields _

theorem cucPenc : Statement .cucPenc := fields _

theorem cucPdec : Statement .cucPdec := fields _

theorem cucEnc : Statement .cucEnc := fields _

theorem cucDec : Statement .cucDec := fields _

theorem cucFromdt : Statement .cucFromdt := fields _

theorem cucTofix : Statement .cucTofix := fields _

theorem spVal : Statement .spVal := fields _

theorem spPack : Statement .spPack := fields _

theorem spParse : Statement .spParse := fields _

theorem tcVal : Statement .tcVal := fields _

theorem tcPack : Statement .tcPack := fields _

theorem tcParse : Statement .tcParse := fields _

theorem tcAck (m : BitVec 4) : Statement (.tcAck m) := fields _

theorem tcReqid : Statement .tcReqid := fields _

theorem tmVal : Statement .tmVal := fields _

theorem tmPack : Statement .tmPack := fields _

theorem tmParse : Statement .tmParse := fields _

end Sys2Proof.Laws.OpcodeField
end

