-- ==== Sys2Proof/Tests/Slice0.lean ====
section
/-! SUPPORT. Tests: words written out from the spec, its worked examples, and for every obligation with
hypotheses a state that meets them. -/

namespace Sys2Proof.Tests

-- One test after the other: side by side they would take one thread each.
set_option Elab.async false

open Sys2Proof Sys2Proof.Machine

/-! ### Helpers -/

/-- A byte sequence written as numbers. -/
def bytes (l : List Nat) : Bytes := l.map (BitVec.ofNat 8)

/-- The state after a result, where there is one. -/
def after : Result → State
  | .next t => t
  | _ => State.reset

/-- A result is a next state. -/
def isNext : Result → Bool
  | .next _ => true
  | _ => false

theorem eq_next_after {r : Result} (h : isNext r = true) : r = .next (after r) := by
  cases r <;> first | rfl | cases h

/-- The state after an operation. -/
def run (i : Instr) (s : State) : State := after (exec i s)

/-- The reset state with these registers. -/
def withRegs (r : Regs) : State := { State.reset with regs := r }

/-- The state with these valid bytes in a buffer. -/
def load (b : BufSel) (l : List Nat) (s : State) : State := s.put b (bytes l)

/-- The reset state with these host transactions to come. -/
def hostDoes (l : List HostEvent) : State := { State.reset with pending := l }

/-- The reset state with other parameters. -/
def withParams (p : Params) (s : State) : State := { s with params := p }

/-! ### Well-formedness (30_encoding.md R84) -/

theorem test_ack_two_flags_ill_formed : (Instr.tcAck 0b0011).wellFormed = false := by decide

theorem test_ack_no_flag_ill_formed : (Instr.tcAck 0b0000).wellFormed = false := by decide

theorem test_ack_one_flag_well_formed : (Instr.tcAck 0b0100).wellFormed = true := by decide

/-! ### Decoding: one word per operation, written out from 30_encoding.md R81 to R86 -/

theorem test_decode_sysNop : decode 0b0000_0000_0000_0000#16 = .ok .sysNop := rfl

theorem test_decode_sysClrerr : decode 0b0000_0001_0000_0000#16 = .ok .sysClrerr := rfl

theorem test_decode_sysReset : decode 0b0000_0010_0000_0000#16 = .ok .sysReset := rfl

theorem test_decode_crcInit : decode 0b0001_0000_0000_0000#16 = .ok .crcInit := rfl

theorem test_decode_crcByte : decode 0b0001_0001_1010_0101#16 = .ok (.crcByte 0xA5) := rfl

theorem test_decode_crcBuf_pkt : decode 0b0001_0010_0000_0000#16 = .ok (.crcBuf .pkt) := rfl

theorem test_decode_crcBuf_dat : decode 0b0001_0010_0000_0001#16 = .ok (.crcBuf .dat) := rfl

theorem test_decode_crcAppend : decode 0b0001_0011_0000_0000#16 = .ok .crcAppend := rfl

theorem test_decode_crcCheck : decode 0b0001_0100_0000_0000#16 = .ok .crcCheck := rfl

theorem test_decode_cucVal : decode 0b0010_0000_0000_0000#16 = .ok .cucVal := rfl

theorem test_decode_cucPenc : decode 0b0010_0001_0000_0000#16 = .ok .cucPenc := rfl

theorem test_decode_cucPdec : decode 0b0010_0010_0000_0000#16 = .ok .cucPdec := rfl

theorem test_decode_cucEnc : decode 0b0010_0011_0000_0000#16 = .ok .cucEnc := rfl

theorem test_decode_cucDec : decode 0b0010_0100_0000_0000#16 = .ok .cucDec := rfl

theorem test_decode_cucFromdt : decode 0b0010_0101_0000_0000#16 = .ok .cucFromdt := rfl

theorem test_decode_cucTofix : decode 0b0010_0110_0000_0000#16 = .ok .cucTofix := rfl

theorem test_decode_spVal : decode 0b0011_0000_0000_0000#16 = .ok .spVal := rfl

theorem test_decode_spPack : decode 0b0011_0001_0000_0000#16 = .ok .spPack := rfl

theorem test_decode_spParse : decode 0b0011_0010_0000_0000#16 = .ok .spParse := rfl

theorem test_decode_tcVal : decode 0b0100_0000_0000_0000#16 = .ok .tcVal := rfl

theorem test_decode_tcPack : decode 0b0100_0001_0000_0000#16 = .ok .tcPack := rfl

theorem test_decode_tcParse : decode 0b0100_0010_0000_0000#16 = .ok .tcParse := rfl

theorem test_decode_tcAck_acceptance : decode 0b0100_0011_0000_0001#16 = .ok (.tcAck 0b0001) := rfl

theorem test_decode_tcAck_start : decode 0b0100_0011_0000_0010#16 = .ok (.tcAck 0b0010) := rfl

theorem test_decode_tcAck_progress : decode 0b0100_0011_0000_0100#16 = .ok (.tcAck 0b0100) := rfl

theorem test_decode_tcAck_completion : decode 0b0100_0011_0000_1000#16 = .ok (.tcAck 0b1000) := rfl

theorem test_decode_tcReqid : decode 0b0100_0100_0000_0000#16 = .ok .tcReqid := rfl

theorem test_decode_tmVal : decode 0b0101_0000_0000_0000#16 = .ok .tmVal := rfl

theorem test_decode_tmPack : decode 0b0101_0001_0000_0000#16 = .ok .tmPack := rfl

theorem test_decode_tmParse : decode 0b0101_0010_0000_0000#16 = .ok .tmParse := rfl

/-! Illegal words (30_encoding.md R81 to R84, R88). -/

theorem test_illegal_format_n_immediate : decode 0x0001#16 = .error .immediateNotZero := rfl

theorem test_illegal_buffer_two : decode 0x1202#16 = .error .bufferSelectAboveOne := rfl

theorem test_illegal_ack_two_flags : decode 0x4303#16 = .error .maskNotOneHot := rfl

theorem test_illegal_ack_high_bit : decode 0x4311#16 = .error .maskNotOneHot := rfl

theorem test_illegal_ack_zero : decode 0x4300#16 = .error .maskNotOneHot := rfl

theorem test_illegal_opcode_03 : decode 0x0300#16 = .error .unassignedOpcode := rfl

theorem test_illegal_opcode_0F : decode 0x0F00#16 = .error .unassignedOpcode := rfl

theorem test_illegal_opcode_15 : decode 0x1500#16 = .error .unassignedOpcode := rfl

theorem test_illegal_opcode_27 : decode 0x2700#16 = .error .unassignedOpcode := rfl

theorem test_illegal_opcode_33 : decode 0x3300#16 = .error .unassignedOpcode := rfl

theorem test_illegal_opcode_45 : decode 0x4500#16 = .error .unassignedOpcode := rfl

theorem test_illegal_opcode_53 : decode 0x5300#16 = .error .unassignedOpcode := rfl

theorem test_illegal_opcode_FF : decode 0xFFFF#16 = .error .unassignedOpcode := rfl

theorem test_decodeTableWord : decodeTableWord 16 0x4308 = some (.tcAck 0b1000) := by decide

theorem test_withFetchWord :
    (after (step (State.reset.withFetchWord 16 0x11A5))).regs.cmd = 0x11A5 := by decide +kernel

/-! ### SYS (the examples of 46_system.md R231 to R233) -/

/-- After an operation that raised E_RANGE. -/
def raised : State := withRegs { Regs.reset with status := 0x4112, errlog := 0x0004, errinfo := 8, cmd := 0x4100 }

theorem test_sysNop :
    (run .sysNop raised).regs.status = 0
      ∧ (run .sysNop raised).regs.errlog = 0x0004 := by decide +kernel

theorem test_sysClrerr :
    (run .sysClrerr raised).regs.status = 0x0100 ∧ (run .sysClrerr raised).regs.errlog = 0 := by
  decide +kernel

theorem test_sysReset :
    (run .sysReset raised).regs.seqf = 3 ∧ (run .sysReset raised).regs.cmd = 0 := by decide +kernel

/-! ### CRC (40_crc.md R101, R105 to R109) -/

theorem test_crcTable_first : crcTable 0x01 = 0x1021 := by decide +kernel

theorem test_crcTable_row_58 : crcTable 0x50 = 0x5AF5 ∧ crcTable 0x13 = 0x2252 := by decide +kernel

/-- The source's telecommand with its PEC. -/
def tcVector : List Nat := [0x18, 0x10, 0xC0, 0x50, 0x00, 0x05, 0x11, 0x08, 0x01, 0x02, 0x79, 0x4A]

theorem test_crcInit :
    (run .crcInit (withRegs { Regs.reset with crc := 0x1234 })).regs.crc = 0xFFFF := by decide +kernel

theorem test_crcByte : (run (.crcByte 0x00) State.reset).regs.crc = 0xE1F0 := by decide +kernel

theorem test_crcByte_again :
    (run (.crcByte 0x00) (run (.crcByte 0x00) State.reset)).regs.crc = 0x1D0F := by decide +kernel

theorem test_crcBuf :
    (run (.crcBuf .pkt) (load .pkt [0x31, 0x32, 0x33, 0x34, 0x35, 0x36, 0x37, 0x38, 0x39]
      State.reset)).regs.crc = 0x29B1 := by decide +kernel

theorem test_crcBuf_empty : (run (.crcBuf .dat) State.reset).regs.crc = 0xFFFF := by decide +kernel

theorem test_crcAppend :
    (run .crcAppend (load .pkt (tcVector.take 10) State.reset)).valid .pkt = bytes tcVector := by
  decide +kernel

theorem test_crcAppend_full :
    (run .crcAppend (withRegs { Regs.reset with pktLen := 65541 })).regs.status = 0x1318 := by
  decide +kernel

theorem test_crcCheck : (run .crcCheck (load .pkt tcVector State.reset)).regs.result = 1 := by
  decide +kernel

theorem test_crcCheck_mismatch :
    (run .crcCheck (load .pkt (tcVector.take 11 ++ [0x4B]) State.reset)).regs.result = 0
      ∧ (run .crcCheck (load .pkt (tcVector.take 11 ++ [0x4B]) State.reset)).regs.status = 0x1400 := by
  decide +kernel

/-! ### CUC (the examples of 41_cuc.md) -/

/-- CUC registers: preamble, unit lengths, identifier, value. -/
def cuc (hasp : BitVec 1) (basic frac : BitVec 8) (tcid : BitVec 32) (sec : BitVec 64) (frc : BitVec 80) :
    State :=
  withRegs
    { Regs.reset with
      cucHasp := hasp
      cucBasic := basic
      cucFrac := frac
      cucTcid := tcid
      cucSec := sec
      cucFrc := frc }

theorem test_cucVal_fraction_too_large :
    (run .cucVal (cuc 0 4 2 0 100 70000)).regs.vfail = 0x00200000
      ∧ (run .cucVal (cuc 0 4 2 0 100 70000)).regs.result = 0 := by decide +kernel

theorem test_cucVal_after_reset : (run .cucVal State.reset).regs.vfail = 0x00040000 := by decide +kernel

theorem test_cucPenc_one_octet :
    (run .cucPenc (cuc 0 4 2 2 0 0)).regs.pfield = 0x2E00
      ∧ (run .cucPenc (cuc 0 4 2 2 0 0)).regs.pfLen = 1 := by
  decide +kernel

theorem test_cucPenc_two_octets :
    (run .cucPenc (cuc 0 7 10 1 0 0)).regs.pfield = 0x9F7C
      ∧ (run .cucPenc (cuc 0 7 10 1 0 0)).regs.pfLen = 2 := by
  decide +kernel

theorem test_cucPdec :
    (run .cucPdec (load .dat [0x2E, 0x00] State.reset)).regs.cucFrac = 2
      ∧ (run .cucPdec (load .dat [0x2E, 0x00] State.reset)).regs.pfield = 0x2E00 := by decide +kernel

theorem test_cucPdec_short :
    (run .cucPdec (load .dat [0x2E] State.reset)).regs.status = 0x2211
      ∧ (run .cucPdec (load .dat [0x2E] State.reset)).regs.errinfo = 6 := by decide +kernel

theorem test_cucEnc :
    (run .cucEnc (cuc 0 4 2 0 100 10000)).valid .dat = bytes [0, 0, 0, 0x64, 0x27, 0x10] := by
  decide +kernel

theorem test_cucEnc_preamble :
    (run .cucEnc (cuc 1 4 2 2 100 10000)).valid .dat = bytes [0x2E, 0, 0, 0, 0x64, 0x27, 0x10] := by
  decide +kernel

theorem test_cucDec :
    (run .cucDec (load .dat [0, 0, 0, 0x64, 0x27, 0x10] (cuc 0 4 2 0 0 0))).regs.cucSec = 100
     
     
      ∧ (run .cucDec (load .dat [0, 0, 0, 0x64, 0x27, 0x10] (cuc 0 4 2 0 0 0))).regs.cucFrc = 10000 := by
  decide +kernel

theorem test_cucDec_short :
    (run .cucDec (load .dat [0, 0, 0, 0x64, 0x27] (cuc 0 4 2 0 0 0))).regs.errinfo = 8 := by
  decide +kernel

/-- A time 100.5 s after the epoch. -/
def halfPast : State :=
  withRegs { Regs.reset with dtSec := 100, dtSub := 500000, cucBasic := 4, cucFrac := 2 }

theorem test_cucFromdt :
    (run .cucFromdt halfPast).regs.cucFrc = 32768 ∧ (run .cucFromdt halfPast).regs.elSub = 500000 := by
  decide +kernel

theorem test_cucFromdt_before_epoch :
    (run .cucFromdt (withRegs { halfPast.regs with epSec := 101 })).regs.status = 0x2516 := by
  decide +kernel

theorem test_cucTofix :
    (run .cucTofix (cuc 0 4 2 0 100 10000)).regs.fix = 0x642710
      ∧ (run .cucTofix (cuc 0 4 2 0 100 10000)).regs.fixFbits = 16 := by decide +kernel

/-! ### Space packets (the examples of 42_space_packet.md and 45_validators.md) -/

/-- The header of the source's telecommand. -/
def tcHeader : Regs := { Regs.reset with ptype := 1, shf := 1, apid := 0x10, seqc := 0x50 }

theorem test_spVal_after_reset :
    (run .spVal State.reset).regs.vfail = 0x00000040 ∧ (run .spVal State.reset).regs.result = 0 := by
  decide +kernel

theorem test_spVal_two_checks :
    (run .spVal (withRegs { Regs.reset with apid := 2048, seqc := 16384, ptype := 1, datLen := 3 })).regs.vfail
      = 0x00000028 := by decide +kernel

theorem test_spPack :
    (run .spPack (load .dat [0x11, 0x08, 0x01] (withRegs tcHeader))).valid .pkt
      = bytes [0x18, 0x10, 0xC0, 0x50, 0x00, 0x02, 0x11, 0x08, 0x01] := by decide +kernel

theorem test_spPack_empty :
    (run .spPack (withRegs tcHeader)).regs.status = 0x3112
      ∧ (run .spPack (withRegs tcHeader)).regs.errinfo = 0x00000040 := by decide +kernel

theorem test_spParse :
    (run .spParse (load .pkt tcVector (withRegs { Regs.reset with hasPec := 1 }))).valid .dat
      = bytes [0x11, 0x08, 0x01, 0x02] := by decide +kernel

theorem test_spParse_too_long :
    (run .spParse (load .pkt (tcVector ++ [0]) State.reset)).regs.status = 0x3214
      ∧ (run .spParse (load .pkt (tcVector ++ [0]) State.reset)).regs.errinfo = 12 := by decide +kernel

/-! ### Telecommand packets (the examples of 43_pus_tc.md and 45_validators.md) -/

/-- The registers of the source's telecommand with source field and PEC. -/
def tcRegs : Regs :=
  { Regs.reset with
    apid := 0x10
    seqc := 0x50
    ack := 1
    svc := 8
    sub := 1
    pusv := 1
    tcSrcW := 1
    src := 2
    hasPec := 1 }

theorem test_tcVal_after_reset :
    (run .tcVal State.reset).regs.vfail = 0x01000000 ∧ (run .tcVal State.reset).regs.result = 1 := by
  decide +kernel

theorem test_tcVal_three_checks :
    (run .tcVal (withRegs { tcRegs with ack := 16, sub := 256, src := 256 })).regs.vfail
        = 0x00002900 := by
  decide +kernel

theorem test_tcPack : (run .tcPack (withRegs tcRegs)).valid .pkt = bytes tcVector := by decide +kernel

theorem test_tcPack_plain :
    (run .tcPack (withRegs { tcRegs with tcSrcW := 0, hasPec := 0 })).valid .pkt
      = bytes [0x18, 0x10, 0xC0, 0x50, 0x00, 0x02, 0x11, 0x08, 0x01] := by decide +kernel

theorem test_tcParse :
    (run .tcParse (load .pkt tcVector (withRegs { Regs.reset with hasPec := 1, tcSrcW := 1 }))).regs.src = 2
     
     
      ∧ (run .tcParse (load .pkt tcVector (withRegs { Regs.reset with hasPec := 1, tcSrcW := 1 }))).regs.pecRx
        = 0x794A := by decide +kernel

theorem test_tcParse_other_profile :
    (run .tcParse (load .pkt tcVector (withRegs { Regs.reset with hasPec := 1 }))).valid .dat
        = bytes [2] := by
  decide +kernel

theorem test_tcAck_set :
    (run (.tcAck 0b0001) (withRegs { Regs.reset with ack := 1 })).regs.result = 1 := by
  decide +kernel

theorem test_tcAck_not_set :
    (run (.tcAck 0b1000) (withRegs { Regs.reset with ack := 0x17 })).regs.result = 0 := by
  decide +kernel

theorem test_tcReqid : (run .tcReqid (withRegs tcHeader)).regs.reqid = 0x1810C050 := by decide +kernel

theorem test_tcReqid_refused :
    (run .tcReqid (withRegs { tcHeader with apid := 2048 })).regs.errinfo = 0x00000008 := by
  decide +kernel

/-! ### Telemetry packets (the examples of 44_pus_tm.md and 45_validators.md) -/

/-- The registers of the acceptance report of 44_pus_tm.md R194. -/
def tmRegs : Regs :=
  { Regs.reset with
    apid := 0x10
    seqc := 0x50
    pusv := 2
    svc := 1
    sub := 1
    cucHasp := 1
    cucTcid := 2
    cucBasic := 4
    cucFrac := 2
    cucSec := 100
    cucFrc := 10000
    hasPec := 1 }

/-- Its packet. -/
def tmVector : List Nat :=
  [0x08, 0x10, 0xC0, 0x50, 0x00, 0x0F, 0x20, 0x01, 0x01, 0x2E, 0x00, 0x00, 0x00, 0x64, 0x27, 0x10, 0x18, 0x10,
    0xC0, 0x50, 0x66, 0xBB]

theorem test_tmVal_after_reset : (run .tmVal State.reset).regs.vfail = 0x01040000 := by decide +kernel

theorem test_tmVal_three_checks :
    (run .tmVal
        (withRegs
          { Regs.reset with
            pusv := 2
            stat := 16
            tmCntW := 9
            cucBasic := 4
            cucFrac := 2
            cucSec := 0x100000000 })).regs.vfail = 0x00104200 := by decide +kernel

theorem test_tmPack :
    (run .tmPack (load .dat [0x18, 0x10, 0xC0, 0x50] (withRegs tmRegs))).valid .pkt
        = bytes tmVector := by
  decide +kernel

theorem test_tmPack_optional_fields :
    (run .tmPack
        (load .dat [0xDE, 0xAD]
          (withRegs
            { Regs.reset with
              apid := 0x7FF
              seqc := 0x3FFF
              pusv := 2
              stat := 5
              svc := 3
              sub := 25
              tmCntW := 2
              cnt := 0x1234
              tmDstW := 1
              dst := 0xAB
              cucBasic := 4
              cucFrac := 0
              cucSec := 0x01020304 }))).valid .pkt
     
         
              = bytes [0x0F, 0xFF, 0xFF, 0xFF, 0x00, 0x0B, 0x25, 0x03, 0x19, 0x12, 0x34, 0xAB, 0x01, 0x02, 0x03, 0x04,
          0xDE, 0xAD] := by decide +kernel

theorem test_tmParse :
    (run .tmParse (load .pkt tmVector (withRegs { Regs.reset with hasPec := 1, cucHasp := 1 }))).regs.cucFrc = 10000
     
     
      ∧ (run .tmParse (load .pkt tmVector (withRegs { Regs.reset with hasPec := 1, cucHasp := 1 }))).valid .dat
        = bytes [0x18, 0x10, 0xC0, 0x50] := by decide +kernel

theorem test_tmParse_no_width :
    (run .tmParse (load .pkt tmVector (withRegs { Regs.reset with hasPec := 1 }))).regs.status
        = 0x5215 := by
  decide +kernel

/-! ### The host port (10_state.md R22, R23, R45) -/

theorem test_host_write_read :
    (after (step (after (step (hostDoes [.regWrite 19 7, .regRead 19]))))).reply = some 7 := by
  decide +kernel

theorem test_host_write_result_ignored :
    after (step (hostDoes [.regWrite 4 1])) = State.reset := by decide +kernel

theorem test_host_write_too_wide : step (hostDoes [.regWrite 8 2]) = .fault (.valueTooWide 8) := rfl

theorem test_host_buffer :
    (after (step (after (step (hostDoes [.bufWrite .dat 65535 0x5A, .bufRead .dat 65535]))))).reply
        = some 0x5A := by
  decide +kernel

/-! ### Witnesses: for every obligation with hypotheses, a state and operands that meet them -/

/-- The source's telecommand in PKT, to be parsed as a packet with PEC and source field. -/
def tcInPkt : State := load .pkt tcVector (withRegs { Regs.reset with hasPec := 1, tcSrcW := 1 })

/-- The acceptance report in PKT, to be parsed with P-field. -/
def tmInPkt : State := load .pkt tmVector (withRegs { Regs.reset with hasPec := 1, cucHasp := 1 })

/-- Buffers of a few bytes. -/
def small : Params := { pktCap := 8, datCap := 2, dtDen := 1000000 }

theorem witness_ResetRegisterValues :
    (hostDoes [.hardReset, .regRead 20]).pending = .hardReset :: [.regRead 20] := rfl

theorem witness_HardwareResetFreesBuffers : (hostDoes [.hardReset]).pending = .hardReset :: [] := rfl

/-- Every field of the invariant is decidable at a concrete state. -/
theorem inv_of_fields {s : State} (h1 : s.params.ok = true) (h2 : s.pkt.wf) (h3 : s.dat.wf)
    (h4 : s.pkt.within s.params.pktCap) (h5 : s.dat.within s.params.datCap)
    (h6 : s.regs.errlog &&& 0xFE01 = 0
      ∧ s.regs.status.extractLsb' 8 8 = s.regs.cmd.extractLsb' 8 8
      ∧ s.regs.status.extractLsb' 5 3 = 0
      ∧ s.regs.status.getLsbD 4 = (s.regs.status.extractLsb' 0 4 != 0)
      ∧ (s.regs.status.extractLsb' 0 4).toNat ≤ 8
      ∧ ((s.regs.status.extractLsb' 0 4).toNat ≠ 0 →
          s.regs.errlog.getLsbD (s.regs.status.extractLsb' 0 4).toNat = true)
      ∧ ((s.regs.status.extractLsb' 0 4).toNat = 0 → s.regs.errinfo = 0)
      ∧ s.regs.result.toNat ≤ 1 ∧ s.regs.vfail &&& 0xF8000000 = 0 ∧ s.regs.pfLen.toNat ≤ 2
      ∧ s.regs.cucUsed.toNat ≤ 19 ∧ s.regs.fixFbits.toNat ≤ 80 ∧ s.regs.elSub.toNat < s.params.dtDen) :
    s.Inv :=
  ⟨h1, h2, h3, h4, h5, h6.1, h6.2.1, h6.2.2.1, h6.2.2.2.1, h6.2.2.2.2.1, h6.2.2.2.2.2.1,
    h6.2.2.2.2.2.2.1, h6.2.2.2.2.2.2.2.1, h6.2.2.2.2.2.2.2.2.1, h6.2.2.2.2.2.2.2.2.2.1,
    h6.2.2.2.2.2.2.2.2.2.2.1, h6.2.2.2.2.2.2.2.2.2.2.2.1, h6.2.2.2.2.2.2.2.2.2.2.2.2⟩

/-- A state that has raised, with bytes in PKT, about to run a command. -/
theorem witness_StepKeepsInvariant :
    ({ load .pkt tcVector raised with pending := [.regWrite 0 0x3200] } : State).Inv
      ∧ step { load .pkt tcVector raised with pending := [.regWrite 0 0x3200] }
        = .next (after (step { load .pkt tcVector raised with pending := [.regWrite 0 0x3200] })) :=
  ⟨inv_of_fields (by decide +kernel) (by decide +kernel) (by decide +kernel) (by decide +kernel)
    (by decide +kernel) (by decide +kernel), eq_next_after (by decide +kernel)⟩

theorem witness_DecodeInvertsEncode :
    (Instr.tcAck 0b0010).wellFormed = true ∧ encode (.tcAck 0b0010) = 0x4302 := by decide

theorem witness_LegalWordsAreTheMap : LegalWord 0x1201 ∧ ¬LegalWord 0x1202 ∧ ¬LegalWord 0x0300 := by
  refine ⟨⟨(0x12, .buffer), by decide, by decide, .inr (by decide)⟩, ?_, ?_⟩ <;>
    · rintro ⟨row, hr, h, ha⟩
      simp only [opcodeMap, List.mem_cons, List.not_mem_nil, or_false] at hr
      rcases hr with rfl | rfl | rfl | rfl | rfl | rfl | rfl | rfl | rfl | rfl | rfl | rfl | rfl | rfl | rfl
        | rfl | rfl | rfl | rfl | rfl | rfl | rfl | rfl | rfl | rfl | rfl <;>
        first
        | exact absurd h (by decide)
        | exact absurd ha (by unfold ImmFormat.allows; decide)

theorem witness_StepRunsDecodedOperation :
    (hostDoes [.regWrite 0 0x11A5]).pending = .regWrite 0 (0x11A5#16).toNat :: []
      ∧ decode 0x11A5 = .ok (.crcByte 0xA5) :=
  ⟨rfl, rfl⟩

theorem witness_IllegalWordRaises :
    (hostDoes [.regWrite 0 0x1202]).pending = .regWrite 0 (0x1202#16).toNat :: []
      ∧ decode 0x1202 = .error .bufferSelectAboveOne ∧ (CmdOp 0x03FF).toNat = 0x03
      ∧ (CmdOp 0x0F00).toNat = 0x0F ∧ (CmdOp 0xFF00).toNat = 0xFF :=
  by
  refine ⟨rfl, rfl, by decide, by decide, by decide⟩

theorem witness_IdleStepChangesNothing : raised.pending = [] := rfl

theorem witness_HostRegisterAccess_write :
    Reg.cucHasp.access = .readWrite ∧ 1 < 2 ^ Reg.cucHasp.width
      ∧ 2 ^ 80 - 1 < 2 ^ Reg.cucFrc.width ∧ Reg.cucFrc.access = .readWrite
     
     
      ∧ (hostDoes [.regWrite 53 (2 ^ 80 - 1)]).pending = .regWrite Reg.cucFrc.number (2 ^ 80 - 1) :: [] :=
  ⟨rfl, by decide, by decide, rfl, rfl⟩

theorem witness_HostRegisterAccess_read :
    (hostDoes [.regRead 65]).pending = .regRead Reg.elSub.number :: [] := rfl

theorem witness_HostRegisterAccess_unlisted (r :
    Reg) : r.number ≠ 6 ∧ r.number ≠ 59 ∧ r.number ≠ 66 := by
  cases r <;> decide

theorem witness_HostRegisterAccess_unlisted_pending :
    (hostDoes [.regWrite 66 1, .regRead 6]).pending = .regWrite 66 1 :: [.regRead 6] := rfl

theorem witness_ResultRegisterWriteIgnored :
    Reg.status.access = .readOnly ∧ Reg.elSub.access = .readOnly
      ∧ (hostDoes [.regWrite 65 9]).pending = .regWrite Reg.elSub.number 9 :: [] :=
  ⟨rfl, rfl, rfl⟩

theorem witness_TooWideWriteStops :
    Reg.cmd.access ≠ .readOnly ∧ 2 ^ Reg.cmd.width ≤ 0x10000 ∧ 2 ^ Reg.hasPec.width ≤ 2
      ∧ (hostDoes [.regWrite 0 0x10000]).pending = .regWrite Reg.cmd.number 0x10000 :: [] :=
  ⟨by decide, by decide, by decide, rfl⟩

theorem witness_HostBufferAccess :
    65541 < State.reset.capacity .pkt ∧ State.reset.capacity .pkt ≤ 65542
      ∧ 65535 < State.reset.capacity .dat ∧ State.reset.capacity .dat ≤ 65536
      ∧ (hostDoes [.bufWrite .pkt 65541 1]).pending = .bufWrite .pkt 65541 1 :: []
      ∧ (hostDoes [.bufRead .dat 65536]).pending = .bufRead .dat 65536 :: [] := by
  decide +kernel

theorem witness_CrcBufResult_at_capacity :
    (withRegs { Regs.reset with pktLen := 65542 }).lengthOf .pkt
      ≤ (withRegs { Regs.reset with pktLen := 65542 }).capacity .pkt := by
  decide +kernel

theorem witness_CrcBufResult_beyond :
    (withRegs { Regs.reset with datLen := 65537 }).capacity .dat
      < (withRegs { Regs.reset with datLen := 65537 }).lengthOf .dat := by
  decide +kernel

theorem witness_CrcAppendResult :
    (load .pkt tcVector State.reset).params.ok = true
      ∧ (withRegs { Regs.reset with pktLen := 65540 }).regs.pktLen.toNat + 2 ≤ State.reset.params.pktCap
     
     
      ∧ State.reset.params.pktCap < (withRegs { Regs.reset with pktLen := 65541 }).regs.pktLen.toNat + 2 := by
  decide +kernel

theorem witness_CrcCheckResult :
    2 ≤ (withRegs { Regs.reset with pktLen := 2 }).regs.pktLen.toNat
      ∧ (withRegs { Regs.reset with pktLen := 65542 }).regs.pktLen.toNat ≤ State.reset.params.pktCap
      ∧ State.reset.params.pktCap < (withRegs { Regs.reset with pktLen := 65543 }).regs.pktLen.toNat
      ∧ (withRegs { Regs.reset with pktLen := 1 }).regs.pktLen.toNat < 2 := by
  decide +kernel

theorem witness_CrcCheckResult_match :
    (run .crcCheck tcInPkt).regs.crc = (run .crcCheck tcInPkt).regs.pecRx := by decide +kernel

theorem witness_BigEndianImages : 1 < 2 ∧ 0x794A < 256 ^ 2 ∧ octet (be 2 0x794A) 1 = 0x4A := by
  decide +kernel

theorem witness_HeaderLayout : (bytes (tcVector.take 6)).length = 6 := rfl

theorem witness_PFieldLayout :
    1 ≤ 7 ∧ 7 ≤ 7 ∧ 10 ≤ 10 ∧ 2 ≤ (pfEnc 7 10 7 ++ []).length ∧ 2 ≤ (pfEnc 1 0 0 ++ bytes [0]).length
      ∧ (pfDec (bytes [0xAC, 0x20])).isOk = true := by
  decide +kernel

theorem witness_RoundsHalfToEven :
    1 ≤ 2 ∧ 2 * (rhe 3 2 * 2) = 2 * 3 + 2 ∧ rhe 3 2 = 2 ∧ rhe 1 2 = 0 := by
  decide +kernel

theorem fails_pusv : checkFails (withRegs { Regs.reset with ver := 8 }) 0 false 0 := by
  show 7 < (8#32).toNat
  decide

/-- After reset the CUC widths fail, a legal format with values in range passes (41_cuc.md R130). -/
theorem witness_CucValReports :
    SomeRequiredFails cucCheckList State.reset 0 false
      ∧ ¬SomeRequiredFails cucCheckList (cuc 1 7 10 7 (2 ^ 56 - 1) (2 ^ 80 - 1)) 0 true := by
  constructor
  · exact ⟨18, by decide, by decide, fun h => absurd h.2.1 (by decide)⟩
  · rintro ⟨k, hk, -, h⟩
    simp only [cucCheckList, List.mem_cons, List.not_mem_nil, or_false] at hk
    rcases hk with rfl | rfl | rfl | rfl
    · exact h ⟨by decide, by decide, by decide⟩
    · exact absurd h.2 (by decide)
    · exact absurd h.2 (by decide +kernel)
    · exact absurd h.2 (by decide +kernel)

theorem witness_SpValReports :
    SomeRequiredFails spChecks (withRegs { Regs.reset with ver := 8 }) 0 false :=
  ⟨0, by decide, by decide, fails_pusv⟩

theorem witness_TcValReports :
    SomeRequiredFails tcCheckList (withRegs { Regs.reset with ver := 8 }) 3 false
      ∧ (run .tcVal (withRegs tcRegs)).regs.result = 1 :=
  ⟨⟨0, by decide, by decide, fails_pusv⟩, by decide +kernel⟩

theorem witness_TmValReports :
    SomeRequiredFails tmCheckList (withRegs { Regs.reset with ver := 8 }) 3 false
      ∧ (run .tmVal (withRegs tmRegs)).regs.result = 1 :=
  ⟨⟨0, by decide, by decide, fails_pusv⟩, by decide +kernel⟩

theorem witness_CucPencResult :
    FormatFits (cuc 0 7 10 7 0 0).regs ∧ (cuc 0 7 10 7 0 0).regs.cucTcid.toNat ≤ 7
      ∧ ¬FormatFits (cuc 0 8 0 0 0 0).regs ∧ FormatFits (cuc 0 1 0 8 0 0).regs
      ∧ 7 < (cuc 0 1 0 8 0 0).regs.cucTcid.toNat :=
  by
  unfold FormatFits
  decide +kernel

theorem witness_CucPdecResult :
    pfieldError ((load .dat [0xAC, 0x20] State.reset).valid .dat) = none
      ∧ (load .dat [0xAC, 0x20] State.reset).regs.datLen.toNat ≤ State.reset.params.datCap
      ∧ State.reset.params.datCap < (withRegs { Regs.reset with datLen := 65537 }).regs.datLen.toNat
      ∧ pfieldError ((load .dat [0xAC] State.reset).valid .dat) = some (1, 6)
      ∧ pfieldError ((load .dat [0xAC, 0x80] State.reset).valid .dat) = some (3, 1) := by
  decide +kernel

theorem witness_CucEncResult_completes :
    TimeFits true (cuc 1 7 10 7 (2 ^ 56 - 1) (2 ^ 80 - 1)).regs
      ∧ (timeBytes (cuc 1 7 10 7 (2 ^ 56 - 1) (2 ^ 80 - 1)).regs).length ≤ State.reset.params.datCap :=
  by
  unfold TimeFits FormatFits
  decide +kernel

theorem witness_CucEncResult_refuses :
    ¬FormatFits (cuc 0 1 11 0 0 0).regs ∧ FormatFits (cuc 0 1 0 0 256 0).regs
      ∧ ¬TimeFits false (cuc 0 1 0 0 256 0).regs
      ∧ exec .cucVal (cuc 0 1 0 0 256 0) = .next (run .cucVal (cuc 0 1 0 0 256 0)) :=
  by
  refine ⟨?_, ?_, ?_, eq_next_after (by decide +kernel)⟩ <;> (try unfold TimeFits) <;> unfold FormatFits <;>
    decide +kernel

theorem witness_CucEncResult_capacity :
    TimeFits false (withParams small (cuc 0 2 1 0 0 0)).regs
      ∧ (withParams small (cuc 0 2 1 0 0 0)).params.datCap
        < (timeBytes (withParams small (cuc 0 2 1 0 0 0)).regs).length :=
  by
  unfold TimeFits FormatFits
  decide +kernel

theorem witness_CucDecResult :
    timeError (cuc 0 1 0 0 0 0).regs ((load .dat [7] (cuc 0 1 0 0 0 0)).valid .dat) = none
      ∧ timeError (cuc 1 0xFF 0xFF 0 0 0).regs (bytes [0x2E, 0, 0, 0, 1, 0, 0]) = none
      ∧ timeError (cuc 1 0 0 0 0 0).regs (bytes [0x2E]) = some (1, 6)
      ∧ timeError (cuc 0 0xFF 0 0 0 0).regs [] = some (5, 0)
      ∧ timeError (cuc 0 8 0 0 0 0).regs [] = some (3, 0)
      ∧ timeError (cuc 0 1 0 0 0 0).regs [] = some (1, 7)
      ∧ timeError (cuc 0 1 1 0 0 0).regs (bytes [7]) = some (1, 8) := by
  decide +kernel

theorem witness_CucFromdtResult_format :
    halfPast.params.ok = true ∧ ¬FormatFits State.reset.regs ∧ FormatFits halfPast.regs :=
  by
  unfold FormatFits
  decide +kernel

theorem witness_CucFromdtResult_times :
    1000000 ≤ (withRegs { halfPast.regs with dtSub := 1000000 }).regs.dtSub.toNat
      ∧ (withRegs { halfPast.regs with dtSub := 999999 }).regs.dtSub.toNat < 1000000
      ∧ 100 * 1000000 + 500000 < 100 * 1000000 + 500001 ∧ 2 ^ (8 * 1) ≤ (256 * 1000000) / 1000000
      ∧ (255 * 1000000 + 999999) / 1000000 < 2 ^ (8 * 1) := by
  decide +kernel

theorem witness_CucTofixResult :
    TimeFits false (cuc 0 1 1 0 255 255).regs ∧ ¬FormatFits (cuc 0 0 0 0 0 0).regs
      ∧ FormatFits (cuc 0 1 1 0 255 256).regs ∧ ¬TimeFits false (cuc 0 1 1 0 255 256).regs :=
  by
  unfold TimeFits FormatFits
  decide +kernel

theorem witness_CucRoundTrip :
    exec .cucEnc (cuc 1 4 2 2 100 10000) = .next (run .cucEnc (cuc 1 4 2 2 100 10000))
      ∧ errorCode (run .cucEnc (cuc 1 4 2 2 100 10000)) = 0 :=
  ⟨eq_next_after (by decide +kernel), by decide +kernel⟩

theorem witness_FromdtTofixBound :
    exec .cucFromdt halfPast = .next (run .cucFromdt halfPast)
      ∧ errorCode (run .cucFromdt halfPast) = 0 :=
  ⟨eq_next_after (by decide +kernel), by decide +kernel⟩

/-- The longest packet the length field and the buffers allow. -/
def longest : Regs := { tcHeader with datLen := 65536, ver := 7, apid := 2047, seqc := 16383 }

theorem witness_SpPackResult_completes :
    HeaderFits true longest ∧ LengthFits (withRegs longest) 65536 :=
  by
  unfold HeaderFits LengthFits
  decide +kernel

/-- The three ways a PACK operation refuses: a time format (TM.PACK), a range, a capacity. -/
theorem witness_PackRefuses :
    checkFails State.reset 3 false 18 ∧ checkFails (withRegs { Regs.reset with ver := 8 }) 3 false 0
      ∧ checkFails (withParams small (withRegs { tcHeader with datLen := 3 })) 3 false 22
     
     
      ∧ (run .spPack (withParams small (load .dat [1, 2, 3] (withRegs tcHeader)))).regs.status = 0x3118 :=
  ⟨fun h => absurd h.2.1 (by decide), fails_pusv, .inl (by decide +kernel), by decide +kernel⟩

theorem witness_SpParseResult :
    spParseError (load .pkt tcVector State.reset) = none
      ∧ spParseError (withRegs { Regs.reset with pktLen := 65543 }) = some (8, 0)
      ∧ spParseError (load .pkt (tcVector.take 5) State.reset) = some (1, 1)
      ∧ spParseError (load .pkt (tcVector.take 11) State.reset) = some (1, 2)
      ∧ spParseError (load .pkt (tcVector ++ [0]) State.reset) = some (4, 12)
     
     
      ∧ spParseError (load .pkt [0, 0, 0, 0, 0, 0, 9] (withRegs { Regs.reset with hasPec := 1 })) = some (1, 3)
     
     
      ∧ spParseError (withParams { small with pktCap := 12 } (load .pkt tcVector State.reset)) = some (8, 1) := by
  decide +kernel

theorem witness_SpRoundTrip :
    exec .spPack (load .dat [1, 2] (withRegs tcHeader))
        = .next (run .spPack (load .dat [1, 2] (withRegs tcHeader)))
      ∧ errorCode (run .spPack (load .dat [1, 2] (withRegs tcHeader))) = 0
      ∧ SamePacket (run .spPack (load .dat [1, 2] (withRegs tcHeader)))
          (run .spPack (load .dat [1, 2] (withRegs tcHeader))) :=
  ⟨eq_next_after (by decide +kernel), by decide +kernel, rfl, rfl, rfl, fun _ _ => rfl⟩

theorem witness_SpParsePackRoundTrip :
    exec .spParse tcInPkt = .next (run .spParse tcInPkt) ∧ errorCode (run .spParse tcInPkt) = 0 :=
  ⟨eq_next_after (by decide +kernel), by decide +kernel⟩

theorem witness_TcPackResult :
    HeaderFits false tcRegs ∧ TcFits tcRegs ∧ LengthFits (withRegs tcRegs) (3 + 1 + 0) :=
  by
  unfold HeaderFits TcFits OptFits LengthFits
  decide +kernel

theorem witness_TcParseResult :
    8 < (withRegs { Regs.reset with tcSrcW := 9 }).regs.tcSrcW.toNat
      ∧ tcInPkt.regs.tcSrcW.toNat ≤ 8 ∧ tcParseError tcInPkt = none
      ∧ tcParseError (load .pkt [0, 0, 0, 0, 0, 1, 1, 2] State.reset) = some (1, 4)
      ∧ tcParseError (load .pkt [0, 0, 0, 0, 0, 2, 1, 2, 3] (withRegs { Regs.reset with tcSrcW := 8 }))
        = some (1, 5)
     
     
      ∧ tcParseError (withParams { small with pktCap := 12 } (load .pkt tcVector State.reset)) = some (8, 1) := by
  decide +kernel

theorem witness_TcRoundTrip :
    exec .tcPack (withRegs tcRegs) = .next (run .tcPack (withRegs tcRegs))
      ∧ errorCode (run .tcPack (withRegs tcRegs)) = 0
      ∧ SamePacket (run .tcPack (withRegs tcRegs)) (run .tcPack (withRegs tcRegs))
      ∧ (run .tcPack (withRegs tcRegs)).regs.tcSrcW = tcRegs.tcSrcW :=
  ⟨eq_next_after (by decide +kernel), by decide +kernel, ⟨rfl, rfl, rfl, fun _ _ => rfl⟩, by decide +kernel⟩

theorem witness_TcAckResult :
    oneHot 0b0001 = true ∧ oneHot 0b1000 = true ∧ tcRegs.ack.toNat &&& (0b0001#4).toNat ≠ 0
      ∧ tcRegs.ack.toNat &&& (0b1000#4).toNat = 0 := by
  decide +kernel

theorem witness_TcReqidResult :
    HeaderFits true longest ∧ ¬HeaderFits true { tcHeader with apid := 2048 } :=
  by
  unfold HeaderFits
  decide +kernel

theorem witness_TmPackResult :
    HeaderFits false tmRegs ∧ TmFits tmRegs ∧ TimeFits true tmRegs
      ∧ LengthFits (withRegs tmRegs) (tmBytes (withRegs tmRegs)).length :=
  by
  unfold HeaderFits TmFits OptFits TimeFits FormatFits LengthFits
  decide +kernel

theorem witness_TmParseResult :
    8 < (withRegs { Regs.reset with tmCntW := 9 }).regs.tmCntW.toNat
      ∧ tmInPkt.regs.tmCntW.toNat ≤ 8 ∧ tmInPkt.regs.tmDstW.toNat ≤ 8 ∧ tmParseError tmInPkt = none
      ∧ tmParseError (load .pkt tmVector (withRegs { Regs.reset with hasPec := 1 })) = some (5, 0)
      ∧ tmParseError (load .pkt [0, 0, 0, 0, 0, 2, 1, 2, 3] (withRegs { Regs.reset with tmDstW := 1 }))
        = some (1, 5) := by
  decide +kernel

theorem witness_TmRoundTrip :
    exec .tmPack (withRegs tmRegs) = .next (run .tmPack (withRegs tmRegs))
      ∧ errorCode (run .tmPack (withRegs tmRegs)) = 0
      ∧ SamePacket (run .tmPack (withRegs tmRegs)) (run .tmPack (withRegs tmRegs))
      ∧ Agree [.tmCntW, .tmDstW, .cucHasp] (withRegs tmRegs) (run .tmPack (withRegs tmRegs)) :=
  by
  refine ⟨eq_next_after (by decide +kernel), by decide +kernel, ⟨rfl, rfl, rfl, fun _ _ => rfl⟩, ?_⟩
  unfold Agree
  decide +kernel

/-- The three packet pairs, and the CUC pair at the smallest capacity its premise admits. -/
theorem witness_ValidatorsPredict :
    (∀ p ∈ [((.spVal, .spPack) : Instr × Instr), (.tcVal, .tcPack), (.tmVal, .tmPack)],
        p ∈ [(Instr.spVal, Instr.spPack), (.tcVal, .tcPack), (.tmVal, .tmPack)])
      ∧ ((.cucVal, .cucEnc) : Instr × Instr) = (.cucVal, .cucEnc)
      ∧ 19 ≤ (withParams { small with datCap := 19 } (cuc 1 7 10 7 0 0)).params.datCap :=
  ⟨by decide, rfl, by decide⟩

theorem witness_OnlyListedErrors :
    exec .spPack State.reset = .next (run .spPack State.reset)
      ∧ errorCode (run .spPack State.reset) ≠ 0 :=
  ⟨eq_next_after (by decide +kernel), by decide +kernel⟩

theorem witness_OnlyListedWrites :
    exec .tcPack (withRegs tcRegs) = .next (run .tcPack (withRegs tcRegs)) :=
  eq_next_after (by decide +kernel)

/-- The same registers and valid bytes, another byte beyond them. -/
theorem witness_InvalidBytesAreNeverRead :
    SameInputs tcInPkt (tcInPkt.writeByte .pkt 12 0x5A)
      ∧ exec .tcParse tcInPkt = .next (run .tcParse tcInPkt)
      ∧ tcInPkt.writeByte .pkt 12 0x5A ≠ tcInPkt := by
  refine ⟨⟨rfl, rfl, fun b i hi => ?_⟩, eq_next_after (by decide +kernel), by decide +kernel⟩
  rw [State.byteAt_writeByte, if_neg]
  rintro ⟨rfl, rfl⟩
  exact absurd hi (by decide +kernel)

/-- A time field as long as DAT, one byte longer (the shape of the spec's vector Z6), and no valid format. -/
theorem witness_CucValPredictsUpToCapacity :
    ((run .cucVal (withParams small (cuc 0 1 1 0 0 0))).regs.result = 1
        ∧ errorCode (run .cucEnc (withParams small (cuc 0 1 1 0 0 0))) = 0)
      ∧ ((run .cucVal (withParams small (cuc 0 2 1 0 0 0))).regs.result = 1
        ∧ errorCode (run .cucEnc (withParams small (cuc 0 2 1 0 0 0))) = 8
        ∧ (run .cucEnc (withParams small (cuc 0 2 1 0 0 0))).regs.vfail = 0)
      ∧ ((run .cucVal (withParams small (cuc 0 0 1 0 0 0))).regs.result = 0
        ∧ errorCode (run .cucEnc (withParams small (cuc 0 0 1 0 0 0))) = 3) := by
  decide +kernel

end Sys2Proof.Tests
end

section
/-! PROOFS. The host port waits (00_scope.md R6, 70_reset_and_hazards.md R270). -/

namespace Sys2Proof.Machine

/-- Settles O10. -/
theorem idleStepChangesNothing : Obligations.IdleStepChangesNothing :=
  fun _ hidle => step_idle hidle

end Sys2Proof.Machine
end

section
/-! PROOFS. Big-endian images and values are inverse to one another (00_scope.md R12). -/

namespace Sys2Proof.Machine

theorem octet_cons_succ (b : Byte) (s : Bytes) (k : Nat) : octet (b :: s) (k + 1) = octet s k := rfl

/-- The octet at index `k` of an image of `n` bytes has `n - 1 - k` octets below it. -/
theorem octet_be {n k : Nat} (v : Nat) (hk : k < n) :
    octet (be n v) k = v / 256 ^ (n - 1 - k) % 256 := by
  induction n generalizing k with
  | zero => omega
  | succ n ih =>
    cases k with
    | zero => rw [be, octet_zero, BitVec.toNat_ofNat]; rfl
    | succ k =>
      rw [be, octet_cons_succ, ih (by omega)]
      congr 3
      omega

/-- `be_n` keeps a number modulo `256^n`. -/
theorem beVal_be (n v : Nat) : beVal (be n v) = v % 256 ^ n := by
  induction n with
  | zero => rw [pow_zero, Nat.mod_one]; rfl
  | succ n ih =>
    rw [be, beVal_cons, ih, length_be, BitVec.toNat_ofNat, Nat.mod_pow_succ (b := 256), Nat.add_comm,
      Nat.mul_comm]

/-- What lies above the low `n` octets of a number is not in its image. -/
theorem be_add_mul_pow (n v k : Nat) : be n (k * 256 ^ n + v) = be n v := by
  induction n generalizing k with
  | zero => rfl
  | succ n ih =>
    have hsplit : k * 256 ^ (n + 1) + v = k * 256 * 256 ^ n + v := by ring
    have hhead : (k * 256 * 256 ^ n + v) / 256 ^ n = k * 256 + v / 256 ^ n := by
      rw [Nat.add_comm, Nat.add_mul_div_right _ _ (Nat.pow_pos (by decide)), Nat.add_comm]
    rw [be, be, hsplit, ih, hhead]
    congr 1
    apply BitVec.eq_of_toNat_eq
    simp only [BitVec.toNat_ofNat]
    omega

theorem be_beVal (s : Bytes) : be s.length (beVal s) = s := by
  induction s with
  | nil => rfl
  | cons b s ih =>
    have hhead : (b.toNat * 256 ^ s.length + beVal s) / 256 ^ s.length = b.toNat := by
      rw [Nat.add_comm, Nat.add_mul_div_right _ _ (Nat.pow_pos (by decide)),
        Nat.div_eq_of_lt (beVal_lt s), Nat.zero_add]
    rw [beVal_cons, List.length_cons, be, be_add_mul_pow, ih, hhead, BitVec.ofNat_toNat,
      BitVec.setWidth_eq]

/-- Settles O25: the four clauses are `length_be`, `octet_be`, `beVal_be` and `be_beVal`. -/
theorem bigEndianImages : Obligations.BigEndianImages :=
  ⟨length_be, fun _ v _ hk => octet_be v hk,
    fun n v hv => by rw [beVal_be, Nat.mod_eq_of_lt hv], be_beVal⟩

end Sys2Proof.Machine
end

section
/-! PROOFS. No operation reads a buffer byte at or beyond the length register (70_reset_and_hazards.md
R272), first part: what two states with the same inputs have in common, and which updates of the state
keep that. -/

namespace Sys2Proof.Machine

/-- Two states hold the same bytes of a buffer below index `n`. -/
def AgreeBelow (b : BufSel) (n : Nat) (s t : State) : Prop :=
  ∀ i, i < n → t.byteAt b i = s.byteAt b i

/-- Two ends of an operation that a program cannot tell apart by registers and valid bytes. -/
inductive SameEnds : Except Err State → Except Err State → Prop where
  | ok {s t : State} : SameInputs s t → SameEnds (.ok s) (.ok t)
  | error (e : Err) : SameEnds (.error e) (.error e)

/-- Two operations give a next state each, and the two cannot be told apart. -/
def SameOutcome (r r' : Result) : Prop := ∃ s t, r = .next s ∧ r' = .next t ∧ SameInputs s t

variable {s t : State}

/-! ### Byte by byte -/

theorem AgreeBelow.slice {b : BufSel} {n off k : Nat} (h : AgreeBelow b n s t) (hk : off + k ≤ n) :
    t.slice b off k = s.slice b off k :=
  State.slice_congr fun i _ hi => h i (by omega)

/-- Writing the same byte at the end of the agreed bytes extends them by one. -/
theorem AgreeBelow.writeByte {b : BufSel} {n : Nat} (h : AgreeBelow b n s t) (v : Byte) :
    AgreeBelow b (n + 1) (s.writeByte b n v) (t.writeByte b n v) := by
  intro i hi
  simp only [State.byteAt_writeByte, true_and]
  split
  · rfl
  · exact h i (by omega)

/-! ### What is the same -/

theorem SameInputs.regs (h : SameInputs s t) : t.regs = s.regs := h.1

theorem SameInputs.params (h : SameInputs s t) : t.params = s.params := h.2.1

theorem SameInputs.agree (h : SameInputs s t) (b : BufSel) : AgreeBelow b (s.lengthOf b) s t := h.2.2 b

theorem SameInputs.lengthOf (h : SameInputs s t) (b : BufSel) : t.lengthOf b = s.lengthOf b := by
  cases b <;> simp only [State.lengthOf, h.regs]

theorem SameInputs.capacity (h : SameInputs s t) (b : BufSel) : t.capacity b = s.capacity b := by
  cases b <;> simp only [State.capacity, h.params]

theorem SameInputs.slice (h : SameInputs s t) {b : BufSel} {off k : Nat}
    (hk : off + k ≤ s.lengthOf b) : t.slice b off k = s.slice b off k :=
  (h.agree b).slice hk

theorem SameInputs.valid (h : SameInputs s t) (b : BufSel) : t.valid b = s.valid b := by
  rw [State.valid, h.lengthOf]
  exact h.slice (by omega)

/-! ### Updates of the registers -/

/-- The same new registers, with no length register raised, keep the valid bytes the same. -/
theorem SameInputs.withRegs (h : SameInputs s t) {r r' : Regs} (hr : r' = r)
    (hpkt : r.pktLen.toNat ≤ s.regs.pktLen.toNat := by exact Nat.le_refl _)
    (hdat : r.datLen.toNat ≤ s.regs.datLen.toNat := by exact Nat.le_refl _) :
    SameInputs { s with regs := r } { t with regs := r' } := by
  refine ⟨hr, h.params, fun b i hi => ?_⟩
  rw [State.byteAt_regs, State.byteAt_regs]
  cases b with
  | pkt => exact h.agree .pkt i (Nat.lt_of_lt_of_le hi hpkt)
  | dat => exact h.agree .dat i (Nat.lt_of_lt_of_le hi hdat)

theorem SameInputs.complete (h : SameInputs s t) (w : CmdWord) :
    SameInputs (s.complete w) (t.complete w) :=
  h.withRegs (by rw [h.regs])

theorem SameInputs.raise (h : SameInputs s t) (w : CmdWord) (e : Err) :
    SameInputs (s.raise w e) (t.raise w e) :=
  h.withRegs (by rw [h.regs])

theorem SameInputs.withVfail (h : SameInputs s t) (m : Mask) :
    SameInputs (s.withVfail m) (t.withVfail m) :=
  h.withRegs (by rw [h.regs])

theorem SameInputs.withResult (h : SameInputs s t) (yes : Bool) :
    SameInputs (s.withResult yes) (t.withResult yes) :=
  h.withRegs (by rw [h.regs])

theorem SameInputs.withCrc (h : SameInputs s t) (c : BitVec 16) :
    SameInputs (s.withCrc c) (t.withCrc c) :=
  h.withRegs (by rw [h.regs])

theorem SameInputs.withTypeFlag (h : SameInputs s t) (typ shf : BitVec 1) :
    SameInputs (s.withTypeFlag typ shf) (t.withTypeFlag typ shf) :=
  h.withRegs (by rw [h.regs])

/-! ### Updates of the buffers -/

/-- A length register may be raised as far as the bytes agree; the register keeps `n` modulo 2^32. -/
theorem SameInputs.withLength (h : SameInputs s t) {b : BufSel} {n : Nat} (hn : AgreeBelow b n s t) :
    SameInputs (s.withLength b n) (t.withLength b n) := by
  have hlen : (BitVec.ofNat 32 n).toNat ≤ n := by
    rw [BitVec.toNat_ofNat]
    exact Nat.mod_le _ _
  refine ⟨by cases b <;> simp [h.regs], by cases b <;> exact h.params, fun c i hi => ?_⟩
  rw [State.byteAt_withLength, State.byteAt_withLength]
  cases b <;> cases c
  case pkt.pkt | dat.dat => exact hn i (Nat.lt_of_lt_of_le hi hlen)
  case pkt.dat | dat.pkt => exact h.agree _ i hi

theorem SameInputs.writeByte (h : SameInputs s t) (b : BufSel) (i : Nat) (v : Byte) :
    SameInputs (s.writeByte b i v) (t.writeByte b i v) := by
  refine ⟨by cases b <;> exact h.regs, by cases b <;> exact h.params, fun c j hj => ?_⟩
  have hlen : (s.writeByte b i v).lengthOf c = s.lengthOf c := by cases b <;> cases c <;> rfl
  rw [State.byteAt_writeByte, State.byteAt_writeByte, h.agree c j (hlen ▸ hj)]

/-- After `put` the valid bytes are the new ones in both states. -/
theorem SameInputs.put (h : SameInputs s t) (b : BufSel) (out : Bytes) :
    SameInputs (s.put b out) (t.put b out) := by
  refine ⟨by cases b <;> simp [h.regs], by cases b <;> exact h.params, fun c i hi => ?_⟩
  rw [State.byteAt_put, State.byteAt_put]
  split
  · rfl
  · next hout =>
    refine h.agree c i ?_
    cases b <;> cases c
    case pkt.dat | dat.pkt => exact hi
    case pkt.pkt | dat.dat =>
      exact absurd ⟨rfl, Nat.lt_of_lt_of_le hi (by simp [State.lengthOf, Nat.mod_le])⟩ hout

theorem SameInputs.putPacket (h : SameInputs s t) (typ shf : BitVec 1) (p : Bytes) :
    SameInputs (s.putPacket typ shf p) (t.putPacket typ shf p) := by
  simp only [State.putPacket, h.regs]
  exact (h.put .pkt _).withRegs (by rw [(h.put .pkt _).regs])

/-! ### How the two ends -/

theorem SameInputs.finish (h : SameInputs s t) (w : CmdWord) {r r' : Except Err State}
    (hr : SameEnds r r') : SameOutcome (finish w s r) (finish w t r') := by
  cases hr with
  | ok hst => exact ⟨_, _, rfl, rfl, hst.complete w⟩
  | error e => exact ⟨_, _, rfl, rfl, h.raise w e⟩

theorem SameEnds.ite {c : Prop} [Decidable c] {a a' b b' : Except Err State}
    (hthen : c → SameEnds a a') (helse : ¬c → SameEnds b b') :
    SameEnds (if c then a else b) (if c then a' else b') := by
  split
  · next hc => exact hthen hc
  · next hc => exact helse hc

theorem SameOutcome.ite {c : Prop} [Decidable c] {a a' b b' : Result}
    (hthen : SameOutcome a a') (helse : SameOutcome b b') :
    SameOutcome (if c then a else b) (if c then a' else b') := by
  split
  · exact hthen
  · exact helse

end Sys2Proof.Machine
end

section
/-! PROOFS. No operation reads a buffer byte at or beyond the length register (70_reset_and_hazards.md
R272), second part: the functions of the state that the meanings share, then the meanings one by one. -/

namespace Sys2Proof.Machine

variable {s t : State}

/-! ### The shared functions of the state -/

theorem SameInputs.spMask (h : SameInputs s t) : spMask t = spMask s := by
  simp only [Machine.spMask, h.regs, h.params]

theorem SameInputs.tcMask (h : SameInputs s t) : tcMask t = tcMask s := by
  simp only [Machine.tcMask, h.regs, h.params]

theorem SameInputs.tmMask (h : SameInputs s t) : tmMask t = tmMask s := by
  simp only [Machine.tmMask, h.regs, h.params]

theorem SameInputs.packRaise (h : SameInputs s t) (m : Mask) : packRaise t m = packRaise s m := by
  simp only [Machine.packRaise, h.regs, h.params]

theorem SameInputs.fromdtMask (h : SameInputs s t) : fromdtMask t = fromdtMask s := by
  simp only [Machine.fromdtMask, h.regs, h.params]

theorem SameInputs.elapsed (h : SameInputs s t) : elapsed t = elapsed s := by
  simp only [Machine.elapsed, h.regs, h.params]

theorem SameInputs.tcPayload (h : SameInputs s t) : tcPayload t = tcPayload s := by
  simp only [Machine.tcPayload, h.regs, h.valid]

theorem SameInputs.tmPayload (h : SameInputs s t) : tmPayload t = tmPayload s := by
  simp only [Machine.tmPayload, h.regs, h.valid]

/-- The header is looked at once PKT holds six bytes, the PEC trailer once the declared length is
PKT_LEN (42_space_packet.md R156). -/
theorem SameInputs.frameSplit (h : SameInputs s t) : frameSplit t = frameSplit s := by
  simp only [Machine.frameSplit, h.lengthOf, h.capacity, h.regs]
  by_cases hhdr : s.lengthOf .pkt < 6
  · simp only [if_pos hhdr]
  · rw [h.slice (b := .pkt) (off := 0) (k := 6) (by omega)]
    by_cases hdlen : s.lengthOf .pkt < 6 + (hdrUnpack (s.slice .pkt 0 6)).dl.toNat + 1
    · simp only [if_pos hdlen]
    · rw [h.slice (by omega)]

/-- The payload of a packet that can be split lies among the valid bytes (42_space_packet.md R156). -/
theorem payload_valid_of_frameSplit {f : Frame} (hf : frameSplit s = .ok f) :
    6 + f.pl ≤ s.lengthOf .pkt := by
  rcases frameSplit_cases s with ⟨g, hg, -, -, hpl, -, -, hlen, -⟩ | ⟨e, he, -⟩
  · obtain rfl : g = f := by simpa [hg] using hf
    rw [State.lengthOf, hpl, hlen]
    omega
  · simp [he] at hf

/-! ### SYS -/

theorem SameInputs.execSysNop (h : SameInputs s t) : SameOutcome (execSysNop s) (execSysNop t) :=
  h.finish _ (.ok h)

theorem SameInputs.execSysClrerr (h : SameInputs s t) :
    SameOutcome (execSysClrerr s) (execSysClrerr t) :=
  h.finish _ (.ok (h.withRegs (by rw [h.regs])))

/-- After SYS.RESET no byte is valid (46_system.md R233). -/
theorem SameInputs.execSysReset (h : SameInputs s t) : SameOutcome (execSysReset s) (execSysReset t) :=
  ⟨_, _, rfl, rfl, h.withRegs rfl (Nat.zero_le _) (Nat.zero_le _)⟩

/-! ### CRC -/

theorem SameInputs.execCrcInit (h : SameInputs s t) : SameOutcome (execCrcInit s) (execCrcInit t) :=
  h.finish _ (.ok (h.withCrc _))

theorem SameInputs.execCrcByte (h : SameInputs s t) (byte : Byte) :
    SameOutcome (execCrcByte byte s) (execCrcByte byte t) := by
  simp only [Machine.execCrcByte, h.regs]
  exact h.finish _ (.ok (h.withCrc _))

theorem SameInputs.execCrcBuf (h : SameInputs s t) (b : BufSel) :
    SameOutcome (execCrcBuf b s) (execCrcBuf b t) := by
  simp only [Machine.execCrcBuf, h.capacity, h.lengthOf, h.valid]
  exact h.finish _ (.ite (fun _ => .error _) fun _ => .ok (h.withCrc _))

/-- The two bytes of the trailer are written to both states before PKT_LEN covers them (40_crc.md R108). -/
theorem SameInputs.execCrcAppend (h : SameInputs s t) :
    SameOutcome (execCrcAppend s) (execCrcAppend t) := by
  simp only [Machine.execCrcAppend, h.capacity, h.lengthOf, h.valid]
  refine h.finish _ (.ite (fun _ => .error _) fun _ => .ok (.withCrc ?_ _))
  exact ((h.writeByte _ _ _).writeByte _ _ _).withLength (((h.agree .pkt).writeByte _).writeByte _)

/-- The trailer is looked at once PKT holds two bytes (40_crc.md R109). -/
theorem SameInputs.execCrcCheck (h : SameInputs s t) : SameOutcome (execCrcCheck s) (execCrcCheck t) := by
  simp only [Machine.execCrcCheck, h.capacity, h.lengthOf, h.regs]
  refine h.finish _ (.ite (fun _ => .error _) fun _ => .ite (fun _ => .error _) fun hlen => .ok ?_)
  rw [h.slice (b := .pkt) (off := 0) (by omega), h.slice (b := .pkt) (k := 2) (by omega)]
  exact (h.withRegs rfl).withResult _

/-! ### CUC -/

theorem SameInputs.execCucVal (h : SameInputs s t) : SameOutcome (execCucVal s) (execCucVal t) := by
  simp only [Machine.execCucVal, h.regs]
  exact h.finish _ (.ok ((h.withVfail _).withResult _))

theorem SameInputs.execCucPenc (h : SameInputs s t) : SameOutcome (execCucPenc s) (execCucPenc t) := by
  simp only [Machine.execCucPenc, State.withVfail_regs, h.regs]
  refine (h.withVfail _).finish _ ?_
  cases timeRaise (timeChecks true s.regs &&& 0x000C0000) with
  | some e => exact .error e
  | none => exact .ok ((h.withVfail _).withRegs rfl)

theorem SameInputs.execCucPdec (h : SameInputs s t) : SameOutcome (execCucPdec s) (execCucPdec t) := by
  simp only [Machine.execCucPdec, h.capacity, h.lengthOf, h.valid, h.regs]
  refine h.finish _ (.ite (fun _ => .error _) fun _ => ?_)
  cases pfDec (s.valid .dat) with
  | error e => exact .error e
  | ok p => exact .ok (h.withRegs rfl)

theorem SameInputs.execCucEnc (h : SameInputs s t) : SameOutcome (execCucEnc s) (execCucEnc t) := by
  simp only [Machine.execCucEnc, h.capacity, h.regs]
  have hv := h.withVfail (timeChecks s.regs.hasP s.regs)
  refine hv.finish _ ?_
  cases timeRaise (timeChecks s.regs.hasP s.regs) with
  | some e => exact .error e
  | none =>
    have hput := hv.put .dat s.regs.timeField
    exact .ite (fun _ => .error _) fun _ => .ok (hput.withRegs (by rw [hput.regs]))

theorem Regs.putTime_pktLen (r : Regs) (f : TimeField) : (r.putTime f).pktLen = r.pktLen :=
  putTime_keeps r f .pktLen (by decide)

theorem Regs.putTime_datLen (r : Regs) (f : TimeField) : (r.putTime f).datLen = r.datLen :=
  putTime_keeps r f .datLen (by decide)

theorem SameInputs.execCucDec (h : SameInputs s t) : SameOutcome (execCucDec s) (execCucDec t) := by
  simp only [Machine.execCucDec, h.capacity, h.lengthOf, h.valid, h.regs]
  refine h.finish _ (.ite (fun _ => .error _) fun _ => ?_)
  cases cucDec (s.valid .dat) s.regs.hasP s.regs.cucBasic.toNat s.regs.cucFrac.toNat with
  | error e => exact .error e
  | ok f => exact .ok (h.withRegs rfl (by rw [Regs.putTime_pktLen]) (by rw [Regs.putTime_datLen]))

theorem SameInputs.execCucFromdt (h : SameInputs s t) :
    SameOutcome (execCucFromdt s) (execCucFromdt t) := by
  simp only [Machine.execCucFromdt, h.fromdtMask, h.elapsed, State.withVfail_regs, h.regs, h.params]
  have hv := h.withVfail (Machine.fromdtMask s)
  cases timeRaise (Machine.fromdtMask s) with
  | some e => exact hv.finish _ (.error e)
  | none =>
    exact .ite (hv.finish _ (.error _))
      (.ite ((h.withVfail _).finish _ (.error _)) (hv.finish _ (.ok (hv.withRegs rfl))))

theorem SameInputs.execCucTofix (h : SameInputs s t) : SameOutcome (execCucTofix s) (execCucTofix t) := by
  simp only [Machine.execCucTofix, State.withVfail_regs, h.regs]
  refine (h.withVfail _).finish _ ?_
  cases timeRaise (timeChecks false s.regs) with
  | some e => exact .error e
  | none => exact .ok ((h.withVfail _).withRegs rfl)

/-! ### Space packets -/

theorem SameInputs.execSpVal (h : SameInputs s t) : SameOutcome (execSpVal s) (execSpVal t) := by
  simp only [Machine.execSpVal, h.spMask]
  exact h.finish _ (.ok ((h.withVfail _).withResult _))

theorem SameInputs.execSpPack (h : SameInputs s t) : SameOutcome (execSpPack s) (execSpPack t) := by
  simp only [Machine.execSpPack, h.spMask, h.packRaise, h.valid, h.regs]
  refine (h.withVfail _).finish _ ?_
  cases Machine.packRaise s (Machine.spMask s) with
  | some e => exact .error e
  | none => exact .ok ((h.withVfail _).putPacket _ _ _)

theorem SameInputs.execSpParse (h : SameInputs s t) : SameOutcome (execSpParse s) (execSpParse t) := by
  simp only [Machine.execSpParse, h.frameSplit, h.capacity, h.regs]
  refine h.finish _ ?_
  cases hf : Machine.frameSplit s with
  | error e => exact .error e
  | ok f =>
    dsimp only
    rw [h.slice (payload_valid_of_frameSplit hf)]
    exact .ite (fun _ => .error _) fun _ => .ok ((h.withRegs rfl).put _ _)

/-! ### Telecommand packets -/

theorem SameInputs.execTcVal (h : SameInputs s t) : SameOutcome (execTcVal s) (execTcVal t) := by
  simp only [Machine.execTcVal, h.tcMask]
  exact h.finish _ (.ok ((h.withVfail _).withResult _))

theorem SameInputs.execTcPack (h : SameInputs s t) : SameOutcome (execTcPack s) (execTcPack t) := by
  simp only [Machine.execTcPack, h.tcMask, h.packRaise, h.tcPayload]
  refine (h.withVfail _).finish _ ?_
  cases Machine.packRaise s (Machine.tcMask s) with
  | some e => exact .error e
  | none => exact .ok (((h.withVfail _).putPacket _ _ _).withTypeFlag _ _)

theorem SameInputs.execTcParse (h : SameInputs s t) : SameOutcome (execTcParse s) (execTcParse t) := by
  simp only [Machine.execTcParse, h.frameSplit, h.capacity, h.regs]
  refine .ite ((h.withVfail _).finish _ (.error _)) (h.finish _ ?_)
  cases hf : Machine.frameSplit s with
  | error e => exact .error e
  | ok f =>
    dsimp only
    rw [h.slice (payload_valid_of_frameSplit hf)]
    exact .ite (fun _ => .error _) fun _ => .ite (fun _ => .error _) fun _ =>
      .ite (fun _ => .error _) fun _ => .ok ((h.withRegs rfl).put _ _)

theorem SameInputs.execTcAck (h : SameInputs s t) (m : BitVec 4) :
    SameOutcome (execTcAck m s) (execTcAck m t) := by
  simp only [Machine.execTcAck, h.regs]
  exact h.finish _ (.ok (h.withResult _))

theorem SameInputs.execTcReqid (h : SameInputs s t) : SameOutcome (execTcReqid s) (execTcReqid t) := by
  simp only [Machine.execTcReqid, State.withVfail_regs, h.regs]
  have hv := h.withVfail (hdrChecks true s.regs)
  exact hv.finish _ (.ite (fun _ => .error _) fun _ => .ok (hv.withRegs rfl))

/-! ### Telemetry packets -/

theorem SameInputs.execTmVal (h : SameInputs s t) : SameOutcome (execTmVal s) (execTmVal t) := by
  simp only [Machine.execTmVal, h.tmMask]
  exact h.finish _ (.ok ((h.withVfail _).withResult _))

theorem SameInputs.execTmPack (h : SameInputs s t) : SameOutcome (execTmPack s) (execTmPack t) := by
  simp only [Machine.execTmPack, h.tmMask, h.packRaise, h.tmPayload]
  refine (h.withVfail _).finish _ ?_
  cases Machine.packRaise s (Machine.tmMask s) with
  | some e => exact .error e
  | none => exact .ok (((h.withVfail _).putPacket _ _ _).withTypeFlag _ _)

theorem Regs.putTm_pktLen (r : Regs) (f : Frame) (cw dw : Nat) (p : Bytes) (x : TimeField) :
    (r.putTm f cw dw p x).pktLen = r.pktLen :=
  Regs.putTime_pktLen (r.putFrame f) x

theorem Regs.putTm_datLen (r : Regs) (f : Frame) (cw dw : Nat) (p : Bytes) (x : TimeField) :
    (r.putTm f cw dw p x).datLen = r.datLen :=
  Regs.putTime_datLen (r.putFrame f) x

theorem SameInputs.execTmParse (h : SameInputs s t) : SameOutcome (execTmParse s) (execTmParse t) := by
  simp only [Machine.execTmParse, h.frameSplit, h.capacity, h.regs]
  refine .ite ((h.withVfail _).finish _ (.error _)) (h.finish _ ?_)
  cases hf : Machine.frameSplit s with
  | error e => exact .error e
  | ok f =>
    dsimp only
    rw [h.slice (payload_valid_of_frameSplit hf)]
    refine .ite (fun _ => .error _) fun _ => .ite (fun _ => .error _) fun _ => ?_
    cases cucDec ((s.slice .pkt 6 f.pl).drop (3 + s.regs.tmCntW.toNat + s.regs.tmDstW.toNat))
        s.regs.hasP s.regs.cucBasic.toNat s.regs.cucFrac.toNat with
    | error e => exact .error e
    | ok x =>
      exact .ite (fun _ => .error _) fun _ => .ok
        ((h.withRegs rfl (by rw [Regs.putTm_pktLen]) (by rw [Regs.putTm_datLen])).put _ _)

/-! ### Every operation -/

/-- Two states with the same inputs give two states with the same inputs, whatever the operation. -/
theorem SameInputs.exec (h : SameInputs s t) (i : Instr) : SameOutcome (exec i s) (exec i t) := by
  cases i with
  | sysNop => exact h.execSysNop
  | sysClrerr => exact h.execSysClrerr
  | sysReset => exact h.execSysReset
  | crcInit => exact h.execCrcInit
  | crcByte byte => exact h.execCrcByte byte
  | crcBuf b => exact h.execCrcBuf b
  | crcAppend => exact h.execCrcAppend
  | crcCheck => exact h.execCrcCheck
  | cucVal => exact h.execCucVal
  | cucPenc => exact h.execCucPenc
  | cucPdec => exact h.execCucPdec
  | cucEnc => exact h.execCucEnc
  | cucDec => exact h.execCucDec
  | cucFromdt => exact h.execCucFromdt
  | cucTofix => exact h.execCucTofix
  | spVal => exact h.execSpVal
  | spPack => exact h.execSpPack
  | spParse => exact h.execSpParse
  | tcVal => exact h.execTcVal
  | tcPack => exact h.execTcPack
  | tcParse => exact h.execTcParse
  | tcAck m => exact h.execTcAck m
  | tcReqid => exact h.execTcReqid
  | tmVal => exact h.execTmVal
  | tmPack => exact h.execTmPack
  | tmParse => exact h.execTmParse

end Sys2Proof.Machine
end

section
/-! PROOFS. No operation reads a buffer byte at or beyond the length register (70_reset_and_hazards.md
R272), last part: the statement. -/

namespace Sys2Proof.Machine

/-- Settles O57, by relating the two runs operation by operation (`SameInputs.exec`). -/
theorem invalidBytesAreNeverRead : Obligations.InvalidBytesAreNeverRead := by
  intro i s t s' h hs
  obtain ⟨u, t', hu, ht, hsame⟩ := h.exec i
  obtain rfl : u = s' := by simpa [hu] using hs
  exact ⟨t', ht, hsame⟩

end Sys2Proof.Machine
end

section
/-! PROOFS. The register space and the decoder: what the host port's cases need of them (10_state.md R22 to
R24, R47, R48, 30_encoding.md R84). -/

namespace Sys2Proof.Machine

theorem Regs.get_set_other (x : Regs) {r q : Reg} (v : BitVec r.width) (h : q ≠ r) :
    (x.set r v).get q = x.get q := by
  cases r <;> cases q <;> first | rfl | exact absurd rfl h

/-- A number that lists a register is that register's own (10_state.md R47). -/
theorem Reg.number_of_ofNumber {n : Nat} {r : Reg} (h : Reg.ofNumber n = some r) : r.number = n := by
  unfold Reg.ofNumber at h
  split at h <;> cases h <;> rfl

/-- A number that is no register's is not listed (10_state.md R47). -/
theorem Reg.ofNumber_eq_none {n : Nat} (h : ∀ r : Reg, r.number ≠ n) : Reg.ofNumber n = none := by
  cases hr : Reg.ofNumber n with
  | none => rfl
  | some r => exact absurd (Reg.number_of_ofNumber hr) (h r)

/-- The reset column of 10_state.md R47. -/
theorem Regs.get_reset (r : Reg) : (Regs.reset.get r).toNat = resetValue r := by
  cases r <;> rfl

/-- CMD is the one register of its access kind (10_state.md R22). -/
theorem Reg.eq_cmd_of_access {r : Reg} (h : r.access = .command) : r = .cmd := by
  cases r <;> first | rfl | cases h

theorem decodeN_wellFormed {imm : Byte} {i j : Instr} (hi : i.wellFormed = true)
    (h : decodeN imm i = .ok j) : j.wellFormed = true := by
  unfold decodeN at h
  split at h
  · cases h
    exact hi
  · cases h

theorem decodeB_wellFormed {imm : Byte} {j : Instr} (h : decodeB imm = .ok j) :
    j.wellFormed = true := by
  unfold decodeB at h
  split at h
  · cases h
    rfl
  · split at h
    · cases h
      rfl
    · cases h

theorem decodeA_wellFormed {imm : Byte} {j : Instr} (h : decodeA imm = .ok j) :
    j.wellFormed = true := by
  unfold decodeA at h
  split at h
  · next hmask =>
    cases h
    exact hmask.2
  · cases h

/-- What the decoder returns has a legal command word (30_encoding.md R81 to R84). -/
theorem decode_wellFormed {w : CmdWord} {i : Instr} (h : decode w = .ok i) : i.wellFormed = true := by
  unfold decode at h
  dsimp only at h
  split at h
  case h_5 =>
    cases h
    rfl
  case h_6 => exact decodeB_wellFormed h
  case h_22 => exact decodeA_wellFormed h
  case h_27 => cases h
  all_goals exact decodeN_wellFormed rfl h

end Sys2Proof.Machine
end

section
/-! PROOFS. What an update of the state leaves the same, and how the frames of two updates in a row combine
(10_state.md R47, 20_memory.md R61). -/

namespace Sys2Proof.Machine

variable {s t u : State}

theorem Keeps.refl (rs : List Reg) (bs : List BufSel) (s : State) : Keeps rs bs s s :=
  ⟨fun _ _ => rfl, fun _ _ _ => rfl, rfl, rfl, rfl, rfl⟩

/-- An update that writes less, after one that may write `rs` and `bs`. -/
theorem Keeps.extend {rs rs' : List Reg} {bs bs' : List BufSel} (h : Keeps rs bs s t)
    (h' : Keeps rs' bs' t u) (hrs : rs' ⊆ rs) (hbs : bs' ⊆ bs) : Keeps rs bs s u := by
  obtain ⟨hreg, hbuf, hparams, hpending, hreply, hresets⟩ := h
  obtain ⟨hreg', hbuf', hparams', hpending', hreply', hresets'⟩ := h'
  refine ⟨fun r hr => ?_, fun b hb i => ?_, hparams'.trans hparams, hpending'.trans hpending,
    hreply'.trans hreply, hresets'.trans hresets⟩
  · rw [hreg' r fun hmem => hr (hrs hmem), hreg r hr]
  · rw [hbuf' b fun hmem => hb (hbs hmem), hbuf b hb]

/-- New registers that differ in `rs` only; the default proof looks at the registers one by one. -/
theorem keeps_regs (s : State) (rs : List Reg) {x : Regs}
    (hx : ∀ r, r ∉ rs → x.get r = s.regs.get r := by
      intro r hr; cases r <;> first | rfl | simp at hr) :
    Keeps rs [] s { s with regs := x } :=
  ⟨hx, fun b _ i => State.byteAt_regs s x b i, rfl, rfl, rfl, rfl⟩

theorem keeps_set (s : State) (r : Reg) (v : BitVec r.width) :
    Keeps [r] [] s { s with regs := s.regs.set r v } :=
  keeps_regs s [r] fun _ hq => Regs.get_set_other _ v (by simpa using hq)

theorem keeps_complete (w : CmdWord) (s : State) :
    Keeps [.cmd, .status, .errinfo] [] s (s.complete w) :=
  keeps_regs s _

theorem keeps_withVfail (s : State) (m : Mask) : Keeps [.vfail] [] s (s.withVfail m) :=
  keeps_set s .vfail m

theorem keeps_withResult (s : State) (yes : Bool) : Keeps [.result] [] s (s.withResult yes) :=
  keeps_set s .result _

theorem keeps_withCrc (s : State) (c : BitVec 16) : Keeps [.crc] [] s (s.withCrc c) :=
  keeps_set s .crc c

theorem keeps_withTypeFlag (s : State) (typ shf : BitVec 1) :
    Keeps [.ptype, .shf] [] s (s.withTypeFlag typ shf) :=
  keeps_regs s _

/-- The length register of a buffer (10_state.md R40). -/
def lengthReg : BufSel → Reg
  | .pkt => .pktLen
  | .dat => .datLen

theorem keeps_withLength (s : State) (b : BufSel) (n : Nat) :
    Keeps [lengthReg b] [] s (s.withLength b n) := by
  cases b with
  | pkt => exact keeps_set s .pktLen _
  | dat => exact keeps_set s .datLen _

theorem keeps_writeByte (s : State) (b : BufSel) (i : Nat) (v : Byte) :
    Keeps [] [b] s (s.writeByte b i v) := by
  refine ⟨fun r _ => by cases b <;> rfl, fun c hc j => ?_, by cases b <;> exact ⟨rfl, rfl, rfl, rfl⟩⟩
  rw [State.byteAt_writeByte, if_neg fun h => hc (by simp [h.1])]

theorem keeps_put (s : State) (b : BufSel) (out : Bytes) : Keeps [lengthReg b] [b] s (s.put b out) := by
  refine ⟨fun r hr => ?_, fun c hc j => ?_, by cases b <;> exact ⟨rfl, rfl, rfl, rfl⟩⟩
  · cases b with
    | pkt => exact (keeps_set s .pktLen _).1 r hr
    | dat => exact (keeps_set s .datLen _).1 r hr
  · rw [State.byteAt_put, dif_neg fun h => hc (by simp [h.1])]

/-- What a pack operation commits is PKT, PKT_LEN and DLEN (42_space_packet.md R154). -/
theorem keeps_putPacket (s : State) (typ shf : BitVec 1) (p : Bytes) :
    Keeps [.pktLen, .dlen] [.pkt] s (s.putPacket typ shf p) :=
  (Keeps.refl _ _ s).extend
      (keeps_put s .pkt (packetBytes (s.regs.header typ shf (p.length + s.regs.pecLen - 1)) p s.regs.pec))
      (by decide) (by decide)
    |>.extend (keeps_set _ .dlen _) (by decide) (by decide)

end Sys2Proof.Machine
end

section
/-! PROOFS. Reset and the host port (10_state.md R22 to R24, R45, R48, 20_memory.md R67, R69). -/

namespace Sys2Proof.Machine

/-- Settles O1: both resets leave `Regs.reset`, which is the reset column (`Regs.get_reset`). -/
theorem resetRegisterValues : Obligations.ResetRegisterValues := by
  refine ⟨Regs.get_reset, fun s rest hp => ?_, fun s => ⟨_, rfl, Regs.get_reset⟩⟩
  exact ⟨_, step_event hp, Regs.get_reset⟩

/-- Settles O8, from `step_command` and what the decoder can return (`decode_wellFormed`). -/
theorem stepRunsDecodedOperation : Obligations.StepRunsDecodedOperation := by
  intro s rest w i hp hi
  refine ⟨decode_wellFormed hi, ?_⟩
  rw [step_command hp, command, hi]

/-! ### What a host register write does, by the register's access kind -/

theorem regWrite_readWrite {r : Reg} {v : Nat} (s : State) (hr : r.access = .readWrite)
    (hv : v < 2 ^ r.width) :
    regWrite r.number v s = .next { s with regs := s.regs.set r (BitVec.ofNat r.width v) } := by
  simp [regWrite, hr, hv]

theorem regWrite_readOnly {r : Reg} (v : Nat) (s : State) (hr : r.access = .readOnly) :
    regWrite r.number v s = .next s := by
  simp [regWrite, hr]

theorem regWrite_unlisted {n : Nat} (v : Nat) (s : State) (hn : ∀ r : Reg, r.number ≠ n) :
    regWrite n v s = .next s := by
  simp [regWrite, Reg.ofNumber_eq_none hn]

theorem regWrite_tooWide {r : Reg} {v : Nat} (s : State) (hr : r.access ≠ .readOnly)
    (hv : 2 ^ r.width ≤ v) : regWrite r.number v s = .fault (.valueTooWide r.number) := by
  cases ha : r.access with
  | readOnly => exact absurd ha hr
  | readWrite => simp [regWrite, ha, Nat.not_lt.2 hv]
  | command =>
    obtain rfl := Reg.eq_cmd_of_access ha
    have hwide : ¬v < 2 ^ 16 := Nat.not_lt.2 hv
    simp only [regWrite, Reg.ofNumber_number, ha, if_neg hwide]

theorem regRead_number (r : Reg) (s : State) : regRead r.number s = (s.regs.get r).toNat := by
  rw [regRead, Reg.ofNumber_number]

theorem regRead_unlisted {n : Nat} (s : State) (hn : ∀ r : Reg, r.number ≠ n) : regRead n s = 0 := by
  rw [regRead, Reg.ofNumber_eq_none hn]

/-- Settles O11, one transaction and one kind of register number at a time. -/
theorem hostRegisterAccess : Obligations.HostRegisterAccess := by
  refine ⟨fun s rest r v hr hv hp => ?write, fun s rest r hp => ?read, fun s rest n v hn hp => ?noWrite,
    fun s rest n hn hp => ?noRead⟩
  case write =>
    refine ⟨_, (step_event hp).trans (regWrite_readWrite _ hr hv), ?_, keeps_set _ r _⟩
    rw [Regs.get_set_same, BitVec.toNat_ofNat, Nat.mod_eq_of_lt hv]
  case read =>
    rw [step_event hp, hostEvent, regRead_number]
    rfl
  case noWrite =>
    rw [step_event hp, hostEvent, regWrite_unlisted v _ hn]
  case noRead =>
    rw [step_event hp, hostEvent, regRead_unlisted _ hn]
    rfl

/-- Settles O12, by the access kind of the register (`regWrite_readOnly`). -/
theorem resultRegisterWriteIgnored : Obligations.ResultRegisterWriteIgnored := by
  intro s rest r v hr hp
  rw [step_event hp, hostEvent, regWrite_readOnly v _ hr]

/-- Settles O13, by the width test of `regWrite` (`regWrite_tooWide`). -/
theorem tooWideWriteStops : Obligations.TooWideWriteStops := by
  intro s rest r v hr hv hp
  rw [step_event hp, hostEvent, regWrite_tooWide _ hr hv]

/-! ### Bytes of a buffer -/

theorem bufWrite_inside {b : BufSel} {i : Nat} {s : State} (v : Byte) (hi : i < s.capacity b) :
    bufWrite b i v s = s.writeByte b i v :=
  if_pos hi

theorem bufWrite_beyond {b : BufSel} {i : Nat} {s : State} (v : Byte) (hi : s.capacity b ≤ i) :
    bufWrite b i v s = s :=
  if_neg (Nat.not_lt.2 hi)

theorem bufRead_inside {b : BufSel} {i : Nat} {s : State} (hi : i < s.capacity b) :
    bufRead b i s = (s.byteAt b i).toNat :=
  if_pos hi

theorem bufRead_beyond {b : BufSel} {i : Nat} {s : State} (hi : s.capacity b ≤ i) :
    bufRead b i s = 0 :=
  if_neg (Nat.not_lt.2 hi)

/-- The transactions to come are no part of a buffer or its capacity (log entry 3). -/
theorem State.capacity_pending (s : State) (rest : List HostEvent) (b : BufSel) :
    ({ s with pending := rest }).capacity b = s.capacity b := by
  cases b <;> rfl

theorem State.byteAt_pending (s : State) (rest : List HostEvent) (b : BufSel) (i : Nat) :
    ({ s with pending := rest }).byteAt b i = s.byteAt b i := by
  cases b <;> rfl

/-- Settles O14, on both sides of the capacity test of each transaction. -/
theorem hostBufferAccess : Obligations.HostBufferAccess := by
  refine ⟨fun s rest b i v hp hi => ?write, fun s rest b i v hp hi => ?noWrite,
    fun s rest b i hp hi => ?read, fun s rest b i hp hi => ?noRead⟩
  all_goals rw [step_event hp, hostEvent]; rw [← s.capacity_pending rest] at hi
  case write =>
    rw [bufWrite_inside v hi]
    obtain ⟨-, -, hworld⟩ := keeps_writeByte { s with pending := rest } b i v
    refine ⟨_, rfl, ?_, fun c j hne => ?_, by cases b <;> rfl, hworld⟩
    · rw [State.byteAt_writeByte, if_pos ⟨rfl, rfl⟩]
    · rw [State.byteAt_writeByte, if_neg hne, State.byteAt_pending]
  case noWrite => rw [bufWrite_beyond v hi]
  case read =>
    rw [bufRead_inside hi, State.byteAt_pending]
    rfl
  case noRead =>
    rw [bufRead_beyond hi]
    rfl

end Sys2Proof.Machine
end

section
/-! PROOFS. The masks of the checks have no bit above 26 (10_state.md R29, 45_validators.md R211). -/

namespace Sys2Proof.Machine

/-- "Bits 27 to 31 are always 0" (10_state.md R29). -/
def HighZero (m : Mask) : Prop := m &&& 0xF8000000 = 0

theorem highZero_iff {m : Mask} : HighZero m ↔ ∀ k, 27 ≤ k → m.getLsbD k = false := by
  have hbits (k : Nat) : (0xF8000000 : Mask).getLsbD k = decide (27 ≤ k ∧ k < 32) := by
    by_cases hk : k < 32
    · interval_cases k <;> rfl
    · rw [BitVec.getLsbD_of_ge _ _ (by omega)]
      simp [hk]
  rw [HighZero, mask_and_eq_zero_iff]
  refine ⟨fun h k hk => ?_, fun h k hm hc => ?_⟩
  · by_contra hm
    rw [Bool.not_eq_false] at hm
    exact h k hm (by rw [hbits]; exact decide_eq_true ⟨hk, BitVec.lt_of_getLsbD hm⟩)
  · rw [hbits, decide_eq_true_eq] at hc
    rw [h k hc.1] at hm
    cases hm

theorem highZero_zero : HighZero 0 := rfl

theorem HighZero.or {m m' : Mask} (h : HighZero m) (h' : HighZero m') : HighZero (m ||| m') := by
  rw [highZero_iff] at *
  intro k hk
  rw [BitVec.getLsbD_or, h k hk, h' k hk, Bool.or_false]

theorem HighZero.and {m : Mask} (h : HighZero m) (c : Mask) : HighZero (m &&& c) := by
  rw [highZero_iff] at *
  intro k hk
  rw [BitVec.getLsbD_and, h k hk, Bool.false_and]

theorem highZero_flagBit {k : Nat} (failed : Bool) (hk : k < 27 := by decide) :
    HighZero (flagBit k failed) := by
  rw [highZero_iff]
  intro j hj
  rw [getLsbD_flagBit _ _ _ (by omega), decide_eq_false (by omega), Bool.and_false]

/-- No row of 45_validators.md R211 has a bit above 26. -/
theorem ShowsChecks.highZero {m : Mask} {ks : List Nat} {s : State} {pl : Nat} {pf : Bool}
    (h : ShowsChecks m ks s pl pf) : HighZero m := by
  rw [highZero_iff]
  intro k hk
  by_contra hm
  exact not_checkFails s pl pf hk ((h k).1 (Bool.eq_true_of_not_eq_false hm)).2

theorem timeChecks_highZero (needTcid : Bool) (s : State) : HighZero (timeChecks needTcid s.regs) :=
  (timeChecks_shows s 0 needTcid).highZero

theorem hdrChecks_highZero (full : Bool) (r : Regs) : HighZero (hdrChecks full r) :=
  (((((highZero_flagBit _).or (highZero_flagBit _)).or (highZero_flagBit _)).or
    (highZero_flagBit _)).or (highZero_flagBit _)).or (highZero_flagBit _)

theorem tmWidthMask_highZero (r : Regs) : HighZero (tmWidthMask r) :=
  (highZero_flagBit _).or (highZero_flagBit _)

theorem fromdtMask_highZero (s : State) : HighZero (fromdtMask s) :=
  ((timeChecks_highZero _ s).and _).or (highZero_flagBit _)

theorem parseAdvisory_highZero (pusv : BitVec 4) (want typ shf : BitVec 1) :
    HighZero (parseAdvisory pusv want typ shf) :=
  ((highZero_flagBit _).or (highZero_flagBit _)).or (highZero_flagBit _)

end Sys2Proof.Machine
end

section
/-! PROOFS. The fields of STATUS (10_state.md R25). -/

namespace Sys2Proof.Machine

theorem statusWord_op (w : CmdWord) (code : Nat) :
    (statusWord w code).extractLsb' 8 8 = w.extractLsb' 8 8 := by
  ext k hk
  simp only [statusWord, BitVec.getElem_extractLsb', BitVec.getLsbD_append]
  interval_cases k <;> simp

theorem statusWord_busy (w : CmdWord) (code : Nat) : (statusWord w code).extractLsb' 5 3 = 0 := by
  ext k hk
  simp only [statusWord, BitVec.getElem_extractLsb', BitVec.getLsbD_append]
  interval_cases k <;> simp

theorem statusWord_errBit (w : CmdWord) (code : Nat) :
    (statusWord w code).getLsbD 4 = (code != 0) := by
  rw [statusWord, BitVec.getLsbD_append, BitVec.getLsbD_append]
  simp

theorem statusWord_code (w : CmdWord) (code : Nat) :
    (statusWord w code).extractLsb' 0 4 = BitVec.ofNat 4 code := by
  ext k hk
  simp only [statusWord, BitVec.getElem_extractLsb', BitVec.getLsbD_append]
  simp [hk]

end Sys2Proof.Machine
end

section
/-! PROOFS. The invariant under each update of the state (10_state.md R25 to R29, R43, R45). -/

namespace Sys2Proof.Machine

variable {s : State}

/-! ### Reset -/

/-- Reset registers over parameters and buffers that have their form (10_state.md R48). -/
theorem inv_of_reset_regs (hregs : s.regs = Regs.reset) (hparams : s.params.ok = true)
    (hpkt : s.pkt.wf) (hdat : s.dat.wf) (hpktIn : s.pkt.within s.params.pktCap)
    (hdatIn : s.dat.within s.params.datCap) : s.Inv := by
  have hcode : errorCode s = 0 := by rw [errorCode, hregs]; rfl
  have hden : 1 ≤ s.params.dtDen := by
    simp only [Params.ok, Bool.and_eq_true, decide_eq_true_eq] at hparams
    omega
  constructor
  case params => exact hparams
  case pktForm => exact hpkt
  case datForm => exact hdat
  case pktWithin => exact hpktIn
  case datWithin => exact hdatIn
  case statusCode => omega
  case statusLogged => exact fun h => absurd hcode h
  case elSubRange => rw [hregs]; exact hden
  case infoZero => rw [hregs]; exact fun _ => rfl
  all_goals rw [hregs]; decide

/-- Settles O3: empty buffers have the form and lie inside any capacity. -/
theorem resetMeetsInvariant : Obligations.ResetMeetsInvariant :=
  inv_of_reset_regs rfl rfl .nil .nil (fun _ h => nomatch h) (fun _ h => nomatch h)

/-! ### The error record -/

/-- A record of completion or of an error, with the error remembered in ERRLOG (10_state.md R25 to R27). -/
theorem State.Inv.withRecord (h : s.Inv) (w : CmdWord) {code : Nat} {log : BitVec 16} {info : BitVec 32}
    (hcode : code ≤ 8) (hlog : log &&& 0xFE01 = 0) (hlogged : code ≠ 0 → log.getLsbD code = true)
    (hinfo : code = 0 → info = 0) :
    ({ s with
        regs :=
          { s.regs with
            cmd := w, status := statusWord w code, errlog := log, errinfo := info } }).Inv := by
  have hlow : (BitVec.ofNat 4 code).toNat = code := by
    rw [BitVec.toNat_ofNat]
    omega
  have hzero : (BitVec.ofNat 4 code != 0) = (code != 0) := by
    rw [Bool.eq_iff_iff, bne_iff_ne, bne_iff_ne, ne_eq, ne_eq, ← BitVec.toNat_inj, hlow]
    rfl
  have herr : errorCode
      { s with
        regs :=
          { s.regs with
            cmd := w, status := statusWord w code, errlog := log, errinfo := info } } = code := by
    rw [errorCode, statusWord_code, hlow]
  exact
    { h with
      errlogBits := hlog
      statusOp := statusWord_op w code
      statusZero := statusWord_busy w code
      statusErr := by rw [statusWord_code, hzero, statusWord_errBit]
      statusCode := by rwa [herr]
      statusLogged := by rwa [herr]
      infoZero := by rwa [herr] }

theorem State.Inv.complete (h : s.Inv) (w : CmdWord) : (s.complete w).Inv :=
  h.withRecord w (Nat.zero_le 8) h.errlogBits (absurd rfl) fun _ => rfl

/-- ERRLOG has a bit for each error code of 60_exceptions.md R241 and no other (10_state.md R26). -/
theorem twoPow_code_and (e : Err) : BitVec.twoPow 16 e.code &&& 0xFE01 = 0 := by
  have hpos := e.code_pos
  have hle := e.code_le
  interval_cases e.code <;> decide

theorem State.Inv.raise (h : s.Inv) (w : CmdWord) (e : Err) : (s.raise w e).Inv := by
  have hpos := e.code_pos
  have hle := e.code_le
  refine h.withRecord w hle ?_ (fun _ => ?_) (by omega)
  · calc (s.regs.errlog ||| BitVec.twoPow 16 e.code) &&& 0xFE01
        = s.regs.errlog &&& 0xFE01 ||| BitVec.twoPow 16 e.code &&& 0xFE01 := by
          ext k hk
          simp [Bool.and_or_distrib_right]
      _ = 0 := by rw [h.errlogBits, twoPow_code_and]; rfl
  · rw [BitVec.getLsbD_or, BitVec.getLsbD_twoPow]
    simp
    omega

/-! ### The other registers -/

theorem State.Inv.withVfail (h : s.Inv) {m : Mask} (hm : HighZero m) : (s.withVfail m).Inv :=
  { h with vfailBits := hm }

theorem State.Inv.withResult (h : s.Inv) (yes : Bool) : (s.withResult yes).Inv :=
  { h with resultBool := by cases yes <;> simp }

theorem State.Inv.withCrc (h : s.Inv) (c : BitVec 16) : (s.withCrc c).Inv := { h with }

theorem State.Inv.withTypeFlag (h : s.Inv) (typ shf : BitVec 1) : (s.withTypeFlag typ shf).Inv :=
  { h with }

theorem State.Inv.withLength (h : s.Inv) (b : BufSel) (n : Nat) : (s.withLength b n).Inv := by
  cases b with
  | pkt => exact { h with }
  | dat => exact { h with }

/-- The host's own writes reach no register the invariant speaks of (10_state.md R22). -/
theorem State.Inv.set (h : s.Inv) {r : Reg} (hr : r.access = .readWrite) (v : BitVec r.width) :
    ({ s with regs := s.regs.set r v }).Inv := by
  cases r <;> first | exact { h with } | cases hr

/-! ### The buffers -/

theorem State.Inv.writeByte (h : s.Inv) {b : BufSel} {i : Nat} (hi : i < s.capacity b) (v : Byte) :
    (s.writeByte b i v).Inv := by
  cases b with
  | pkt =>
    exact { h with
      pktForm := Memory.wf_write h.pktForm i v
      pktWithin := Memory.within_write h.pktWithin hi v }
  | dat =>
    exact { h with
      datForm := Memory.wf_write h.datForm i v
      datWithin := Memory.within_write h.datWithin hi v }

theorem State.Inv.put (h : s.Inv) {b : BufSel} {out : Bytes} (hout : out.length ≤ s.capacity b) :
    (s.put b out).Inv := by
  cases b with
  | pkt =>
    exact { h with
      pktForm := Memory.wf_overwrite h.pktForm out
      pktWithin := Memory.within_overwrite h.pktWithin hout }
  | dat =>
    exact { h with
      datForm := Memory.wf_overwrite h.datForm out
      datWithin := Memory.within_overwrite h.datWithin hout }

theorem State.Inv.putPacket (h : s.Inv) (typ shf : BitVec 1) {p : Bytes}
    (hp : 6 + (p.length + s.regs.pecLen) ≤ s.params.pktCap) : (s.putPacket typ shf p).Inv := by
  refine { State.Inv.put (b := .pkt) h (out := packetBytes
    (s.regs.header typ shf (p.length + s.regs.pecLen - 1)) p s.regs.pec) ?_ with }
  rw [length_packetBytes, ← pecLen_eq, Nat.add_assoc]
  exact hp

end Sys2Proof.Machine
end

section
/-! PROOFS. What an operation may do to the state: it writes what 10_state.md R47 and 20_memory.md R61 list
for it, and keeps the invariant. First part: the updates the meanings are made of. -/

namespace Sys2Proof.Machine

/-- The registers an operation may write: the error record, and its own of 10_state.md R47. -/
def writable (i : Instr) : List Reg := [.cmd, .status, .errlog, .errinfo] ++ mayWrite i

/-- The buffers an operation may write (20_memory.md R61). -/
def writableBuffers (i : Instr) : List BufSel :=
  (if i ∈ pktWriters then [.pkt] else []) ++ (if i ∈ datWriters then [.dat] else [])

/-- From `s`, operation `i` may reach `t`: only what it may write differs, and the invariant is kept. -/
structure Advances (i : Instr) (s t : State) : Prop where
  keeps : Keeps (writable i) (writableBuffers i) s t
  inv : s.Inv → t.Inv

/-- An operation ends in a state that meets `P`, or in an error. -/
inductive EndsIn (P : State → Prop) : Except Err State → Prop where
  | ok {t : State} : P t → EndsIn P (.ok t)
  | error (e : Err) : EndsIn P (.error e)

/-- A result is a next state, and that state meets `P`. -/
def NextIs (P : State → Prop) (r : Result) : Prop := ∃ t, r = .next t ∧ P t

variable {i : Instr} {s t u : State} {P : State → Prop}

theorem pkt_mem_writableBuffers : .pkt ∈ writableBuffers i ↔ i ∈ pktWriters := by
  simp [writableBuffers]

theorem dat_mem_writableBuffers : .dat ∈ writableBuffers i ↔ i ∈ datWriters := by
  simp [writableBuffers]

theorem EndsIn.ite {c : Prop} [Decidable c] {a b : Except Err State} (hthen : c → EndsIn P a)
    (helse : ¬c → EndsIn P b) : EndsIn P (if c then a else b) := by
  split
  · next hc => exact hthen hc
  · next hc => exact helse hc

theorem NextIs.ite {c : Prop} [Decidable c] {a b : Result} (hthen : NextIs P a) (helse : NextIs P b) :
    NextIs P (if c then a else b) := by
  split
  · exact hthen
  · exact helse

theorem Advances.refl (i : Instr) (s : State) : Advances i s s := ⟨.refl _ _ s, id⟩

/-- One more update, of listed registers and buffers. -/
theorem Advances.extend {rs : List Reg} {bs : List BufSel} (h : Advances i s t) (hk : Keeps rs bs t u)
    (hi : t.Inv → u.Inv) (hrs : rs ⊆ writable i := by simp [writable, mayWrite, lengthReg])
    (hbs : bs ⊆ writableBuffers i := by decide) : Advances i s u :=
  ⟨h.keeps.extend hk hrs hbs, fun hs => hi (h.inv hs)⟩

theorem Advances.params (h : Advances i s t) : t.params = s.params := by
  obtain ⟨-, -, hparams, -⟩ := h.keeps
  exact hparams

theorem Advances.capacity (h : Advances i s t) (b : BufSel) : t.capacity b = s.capacity b := by
  cases b <;> simp only [State.capacity, h.params]

theorem Advances.complete (h : Advances i s t) (w : CmdWord) : Advances i s (t.complete w) :=
  h.extend (keeps_complete w t) (·.complete w) (by simp [writable]) (List.nil_subset _)

theorem Advances.raise (h : Advances i s t) (w : CmdWord) (e : Err) : Advances i s (t.raise w e) :=
  h.extend (keeps_raise w e t) (·.raise w e) (by simp [writable]) (List.nil_subset _)

/-- An operation reaches its end from what it has written so far. -/
theorem Advances.finish (h : Advances i s t) (w : CmdWord) {r : Except Err State}
    (hr : EndsIn (Advances i s) r) : NextIs (Advances i s) (finish w t r) := by
  cases hr with
  | ok hu => exact ⟨_, rfl, hu.complete w⟩
  | error e => exact ⟨_, rfl, h.raise w e⟩

theorem Advances.withVfail (h : Advances i s t) {m : Mask} (hm : HighZero m)
    (hrs : [.vfail] ⊆ writable i := by simp [writable, mayWrite, lengthReg]) :
    Advances i s (t.withVfail m) :=
  h.extend (keeps_withVfail t m) (·.withVfail hm) hrs (List.nil_subset _)

theorem Advances.withResult (h : Advances i s t) (yes : Bool)
    (hrs : [.result] ⊆ writable i := by simp [writable, mayWrite, lengthReg]) :
    Advances i s (t.withResult yes) :=
  h.extend (keeps_withResult t yes) (·.withResult yes) hrs (List.nil_subset _)

theorem Advances.withCrc (h : Advances i s t) (c : BitVec 16)
    (hrs : [.crc] ⊆ writable i := by simp [writable, mayWrite, lengthReg]) : Advances i s (t.withCrc c) :=
  h.extend (keeps_withCrc t c) (·.withCrc c) hrs (List.nil_subset _)

/-- The caller of `put` has tested the capacity (20_memory.md R71). -/
theorem Advances.put (h : Advances i s t) (b : BufSel) {out : Bytes} (hout : out.length ≤ s.capacity b)
    (hrs : [lengthReg b] ⊆ writable i := by simp [writable, mayWrite, lengthReg])
    (hbs : [b] ⊆ writableBuffers i := by decide) : Advances i s (t.put b out) :=
  h.extend (keeps_put t b out) (·.put (h.capacity b ▸ hout)) hrs hbs

theorem Advances.putPacket (h : Advances i s t) (typ shf : BitVec 1) {p : Bytes}
    (hp : 6 + (p.length + t.regs.pecLen) ≤ t.params.pktCap)
    (hrs : [.pktLen, .dlen] ⊆ writable i := by simp [writable, mayWrite, lengthReg])
    (hbs : [.pkt] ⊆ writableBuffers i := by decide) : Advances i s (t.putPacket typ shf p) :=
  h.extend (keeps_putPacket t typ shf p) (·.putPacket typ shf hp) hrs hbs

/-! ### Time fields -/

theorem toNat_ofNat_le (w n : Nat) : (BitVec.ofNat w n).toNat ≤ n := by
  rw [BitVec.toNat_ofNat]
  exact Nat.mod_le _ _

theorem keeps_putTime (s : State) (f : TimeField) :
    Keeps [.cucBasic, .cucFrac, .cucTcid, .cucSec, .cucFrc, .cucUsed] [] s
      { s with regs := s.regs.putTime f } :=
  keeps_regs s _ (putTime_keeps s.regs f)

theorem State.Inv.putTime (h : s.Inv) {f : TimeField} (hused : f.used ≤ 19) :
    ({ s with regs := s.regs.putTime f }).Inv := by
  have hrange : (BitVec.ofNat 8 f.used).toNat ≤ 19 := (toNat_ofNat_le _ _).trans hused
  unfold Regs.putTime
  split
  · exact { h with usedRange := hrange }
  · exact { h with usedRange := hrange }

/-- A time field has at most 19 bytes (10_state.md R43). -/
theorem length_timeField_le {needTcid : Bool} {r : Regs} (h : TimeFits needTcid r) :
    r.timeField.length ≤ 19 := by
  obtain ⟨⟨-, hbasic, hfrac⟩, -⟩ := h
  rw [Regs.timeField, length_cucEnc, pfieldLen]
  split
  · split <;> omega
  · omega

/-! ### Packets: what a PACK operation has tested, and what a PARSE operation writes -/

/-- Nothing is raised when every required check passes (45_validators.md R215). -/
theorem not_checkFails_of_packRaise {m : Mask} {ks : List Nat} {pl : Nat} {pf : Bool}
    (hs : ShowsChecks m ks s pl pf) (hraise : packRaise s m = none) {k : Nat} (hk : k ∈ ks)
    (h23 : k ≤ 23) : ¬checkFails s pl pf k :=
  fun hfails => (packRaise_eq_none_iff hs).1 hraise ⟨k, hk, h23, hfails⟩

/-- The packet of a payload that passed the capacity check fits PKT (45_validators.md R213). -/
theorem packet_fits_of_packRaise {m : Mask} {ks : List Nat} {pl : Nat} {pf : Bool}
    (hs : ShowsChecks m ks s pl pf) (hraise : packRaise s m = none) (h22 : 22 ∈ ks) :
    6 + (pl + s.regs.pecLen) ≤ s.params.pktCap :=
  Nat.le_of_not_lt fun hlt => not_checkFails_of_packRaise hs hraise h22 (by decide) (.inr hlt)

theorem length_tcPayload (hw : s.regs.tcSrcW.toNat ≤ 8) :
    (tcPayload s).length = tcPayloadLen s.regs := by
  simp only [tcPayload, tcSechdr, optField, tcPayloadLen, legalWidth, if_pos hw, List.length_append,
    List.length_cons, List.length_nil, length_be, State.length_valid, State.lengthOf]

theorem length_tmPayload (hcnt : s.regs.tmCntW.toNat ≤ 8) (hdst : s.regs.tmDstW.toNat ≤ 8)
    (hfmt : FormatFits s.regs) : (tmPayload s).length = tmPayloadLen s.regs := by
  have htime : s.regs.timeField.length = s.regs.timeLen := by
    rw [Regs.timeField, length_cucEnc, Regs.timeLen, if_pos ((fmtOk_iff _).2 hfmt)]
  simp only [tmPayload, tmSechdr, optField, tmPayloadLen, legalWidth, if_pos hcnt, if_pos hdst, htime,
    List.length_append, List.length_cons, List.length_nil, length_be, State.length_valid, State.lengthOf]

theorem keeps_putFrame (s : State) (f : Frame) :
    Keeps [.ver, .ptype, .shf, .apid, .seqf, .seqc, .dlen, .pecRx] [] s
      { s with regs := s.regs.putFrame f } :=
  keeps_regs s _ (putFrame_keeps s.regs f)

theorem State.Inv.putFrame (h : s.Inv) (f : Frame) : ({ s with regs := s.regs.putFrame f }).Inv :=
  { h with }

end Sys2Proof.Machine
end

section
/-! PROOFS. What an operation may do to the state, second part: the meanings one by one. -/

namespace Sys2Proof.Machine

variable (s : State)

/-! ### SYS -/

theorem execSysNop_advances : NextIs (Advances .sysNop s) (execSysNop s) :=
  (Advances.refl _ s).finish _ (.ok (.refl _ s))

/-- ERRLOG is cleared together with STATUS, which tells of no error then (46_system.md R232). -/
theorem execSysClrerr_advances : NextIs (Advances .sysClrerr s) (execSysClrerr s) := by
  refine ⟨_, rfl,
    (Advances.refl _ s).extend (keeps_regs s [.cmd, .status, .errlog, .errinfo]) fun hi => ?_⟩
  exact hi.withRecord (log := 0) _ (Nat.zero_le 8) (by decide) (absurd rfl) fun _ => rfl

theorem execSysReset_advances : NextIs (Advances .sysReset s) (execSysReset s) :=
  ⟨_, rfl, (Advances.refl _ s).extend
    (keeps_regs s (writable .sysReset) fun r hr => by cases r <;> simp [writable, mayWrite] at hr)
    (fun hi => inv_of_reset_regs rfl hi.params hi.pktForm hi.datForm hi.pktWithin hi.datWithin)
    (List.Subset.refl _)⟩

/-! ### CRC -/

theorem execCrcInit_advances : NextIs (Advances .crcInit s) (execCrcInit s) :=
  (Advances.refl _ s).finish _ (.ok ((Advances.refl _ s).withCrc _))

theorem execCrcByte_advances (byte : Byte) :
    NextIs (Advances (.crcByte byte) s) (execCrcByte byte s) :=
  (Advances.refl _ s).finish _ (.ok ((Advances.refl _ s).withCrc _))

theorem execCrcBuf_advances (b : BufSel) : NextIs (Advances (.crcBuf b) s) (execCrcBuf b s) :=
  (Advances.refl _ s).finish _ (.ite (fun _ => .error _) fun _ => .ok ((Advances.refl _ s).withCrc _))

/-- Both bytes of the trailer lie inside the capacity (40_crc.md R108). -/
theorem execCrcAppend_advances : NextIs (Advances .crcAppend s) (execCrcAppend s) := by
  refine (Advances.refl _ s).finish _ (.ite (fun _ => .error _) fun hcap => .ok ?_)
  have hroom : s.lengthOf .pkt + 2 ≤ s.capacity .pkt := by omega
  refine Advances.withCrc (Advances.extend ?_ (keeps_withLength _ .pkt _) (·.withLength .pkt _)) _
  refine Advances.extend (Advances.extend (.refl _ s) (keeps_writeByte _ .pkt _ _) fun hi => ?_)
    (keeps_writeByte _ .pkt _ _) fun hi => ?_
  · exact hi.writeByte (by omega) _
  · exact hi.writeByte (Nat.lt_of_succ_le hroom) _

theorem execCrcCheck_advances : NextIs (Advances .crcCheck s) (execCrcCheck s) := by
  refine (Advances.refl _ s).finish _ (.ite (fun _ => .error _) fun _ =>
    .ite (fun _ => .error _) fun _ => .ok (.withResult ?_ _))
  exact (Advances.refl _ s).extend (keeps_regs s [.crc, .pecRx]) fun hi => { hi with }

/-! ### CUC -/

theorem execCucVal_advances : NextIs (Advances .cucVal s) (execCucVal s) :=
  (Advances.refl _ s).finish _
    (.ok (((Advances.refl _ s).withVfail (timeChecks_highZero _ s)).withResult _))

theorem execCucPenc_advances : NextIs (Advances .cucPenc s) (execCucPenc s) := by
  have hv := (Advances.refl .cucPenc s).withVfail ((timeChecks_highZero true s).and 0x000C0000)
  have hlen : (pfEnc s.regs.cucBasic.toNat s.regs.cucFrac.toNat s.regs.cucTcid.toNat).length ≤ 2 := by
    rw [length_pfEnc]
    split <;> omega
  refine hv.finish _ ?_
  dsimp only
  cases timeRaise (timeChecks true s.regs &&& 0x000C0000) with
  | some e => exact .error e
  | none =>
    refine .ok (hv.extend (keeps_regs _ [.pfield, .pfLen, .cucUsed]) fun hi => ?_)
    exact { hi with
      pfLenRange := (toNat_ofNat_le _ _).trans hlen
      usedRange := (toNat_ofNat_le _ _).trans (hlen.trans (by decide)) }

theorem execCucPdec_advances : NextIs (Advances .cucPdec s) (execCucPdec s) := by
  refine (Advances.refl _ s).finish _ (.ite (fun _ => .error _) fun _ => ?_)
  rcases pfDec_cases (s.valid .dat) with ⟨p, hp, -, -, -, -, hn, -⟩ | ⟨e, he, -⟩
  · rw [hp]
    refine .ok ((Advances.refl .cucPdec s).extend
      (keeps_regs s [.cucBasic, .cucFrac, .cucTcid, .pfield, .pfLen, .cucUsed, .vfail]) fun hi => ?_)
    exact { hi with
      pfLenRange := (toNat_ofNat_le _ _).trans hn
      usedRange := (toNat_ofNat_le _ _).trans (hn.trans (by decide))
      vfailBits := highZero_zero }
  · rw [he]
    exact .error e

theorem execCucEnc_advances : NextIs (Advances .cucEnc s) (execCucEnc s) := by
  have hv := (Advances.refl .cucEnc s).withVfail (timeChecks_highZero s.regs.hasP s)
  refine hv.finish _ ?_
  dsimp only
  cases hfits : timeRaise (timeChecks s.regs.hasP s.regs) with
  | some e => exact .error e
  | none =>
    have hlen := length_timeField_le (timeRaise_eq_none_iff.1 hfits)
    refine .ite (fun _ => .error _) fun hcap => .ok ?_
    have hput := hv.put .dat (Nat.le_of_not_lt hcap)
    refine hput.extend (keeps_set _ .cucUsed _) fun hi => ?_
    exact { hi with usedRange := (toNat_ofNat_le _ _).trans hlen }

theorem execCucDec_advances : NextIs (Advances .cucDec s) (execCucDec s) := by
  refine (Advances.refl _ s).finish _ (.ite (fun _ => .error _) fun _ => ?_)
  rcases cucDec_cases s.regs (s.valid .dat) with
    ⟨f, hf, -, -, -, -, -, -, -, -, hused, -⟩ | ⟨e, he, -⟩
  · rw [hf]
    have htime := (Advances.refl .cucDec s).extend (keeps_putTime s f) (·.putTime hused)
    exact .ok (htime.withVfail highZero_zero)
  · rw [he]
    exact .error e

/-- EL_SUB is a remainder modulo DT_DEN (41_cuc.md R142). -/
theorem execCucFromdt_advances : NextIs (Advances .cucFromdt s) (execCucFromdt s) := by
  have hv := (Advances.refl .cucFromdt s).withVfail (fromdtMask_highZero s)
  unfold execCucFromdt
  dsimp only
  cases timeRaise (fromdtMask s) with
  | some e => exact hv.finish _ (.error e)
  | none =>
    refine .ite (hv.finish _ (.error _)) (.ite (Advances.finish ?_ _ (.error _)) (hv.finish _ (.ok ?_)))
    · exact (Advances.refl _ s).withVfail (highZero_flagBit (k := 20) true)
    · refine hv.extend (keeps_regs _ [.cucSec, .cucFrc, .elSec, .elSub]) fun hi => ?_
      have hden : 0 < s.params.dtDen := by
        have hok : s.params.ok = true := hi.params
        simp only [Params.ok, Bool.and_eq_true, decide_eq_true_eq] at hok
        omega
      exact { hi with
        elSubRange := Nat.lt_of_le_of_lt (toNat_ofNat_le _ _) (Nat.mod_lt _ hden) }

theorem execCucTofix_advances : NextIs (Advances .cucTofix s) (execCucTofix s) := by
  have hv := (Advances.refl .cucTofix s).withVfail (timeChecks_highZero false s)
  refine hv.finish _ ?_
  dsimp only
  cases hfits : timeRaise (timeChecks false s.regs) with
  | some e => exact .error e
  | none =>
    obtain ⟨⟨-, -, hfrac⟩, -⟩ := timeRaise_eq_none_iff.1 hfits
    refine .ok (hv.extend (keeps_regs _ [.fix, .fixFbits]) fun hi => ?_)
    exact { hi with fbitsRange := (toNat_ofNat_le _ _).trans (by omega) }

/-! ### Space packets -/

theorem execSpVal_advances : NextIs (Advances .spVal s) (execSpVal s) :=
  (Advances.refl _ s).finish _
    (.ok (((Advances.refl _ s).withVfail (spMask_shows s).highZero).withResult _))

theorem execSpPack_advances : NextIs (Advances .spPack s) (execSpPack s) := by
  have hv := (Advances.refl .spPack s).withVfail (spMask_shows s).highZero
  refine hv.finish _ ?_
  cases hraise : packRaise s (spMask s) with
  | some e => exact .error e
  | none =>
    have hfits := packet_fits_of_packRaise (spMask_shows s) hraise (by decide)
    refine .ok (hv.putPacket _ _ ?_)
    rw [State.length_valid]
    exact hfits

theorem execSpParse_advances : NextIs (Advances .spParse s) (execSpParse s) := by
  refine (Advances.refl _ s).finish _ ?_
  cases frameSplit s with
  | error e => exact .error e
  | ok f =>
    refine .ite (fun _ => .error _) fun hcap => .ok (Advances.put ?_ .dat ?_)
    · exact ((Advances.refl .spParse s).extend (keeps_putFrame s f) (·.putFrame f)).withVfail highZero_zero
    · rw [State.length_slice]
      exact Nat.le_of_not_lt hcap

/-! ### Telecommand packets -/

theorem execTcVal_advances : NextIs (Advances .tcVal s) (execTcVal s) :=
  (Advances.refl _ s).finish _
    (.ok (((Advances.refl _ s).withVfail (tcMask_shows s).highZero).withResult _))

theorem execTcPack_advances : NextIs (Advances .tcPack s) (execTcPack s) := by
  have hv := (Advances.refl .tcPack s).withVfail (tcMask_shows s).highZero
  refine hv.finish _ ?_
  cases hraise : packRaise s (tcMask s) with
  | some e => exact .error e
  | none =>
    have hfits := packet_fits_of_packRaise (tcMask_shows s) hraise (by decide)
    have hwidth : s.regs.tcSrcW.toNat ≤ 8 := Nat.le_of_not_lt
      (not_checkFails_of_packRaise (tcMask_shows s) hraise (k := 12) (by decide) (by decide))
    refine .ok ((hv.putPacket 1 1 ?_).extend (keeps_withTypeFlag _ 1 1) (·.withTypeFlag 1 1))
    rw [length_tcPayload hwidth]
    exact hfits

theorem keeps_putTc (s : State) (f : Frame) (w : Nat) (p : Bytes) :
    Keeps [.ver, .ptype, .shf, .apid, .seqf, .seqc, .dlen, .pecRx, .pusv, .ack, .svc, .sub, .src,
      .vfail] [] s { s with regs := s.regs.putTc f w p } :=
  keeps_regs s _

theorem execTcParse_advances : NextIs (Advances .tcParse s) (execTcParse s) := by
  refine .ite (Advances.finish ((Advances.refl _ s).withVfail (highZero_flagBit (k := 12) true)) _ (.error _))
    ((Advances.refl _ s).finish _ ?_)
  cases frameSplit s with
  | error e => exact .error e
  | ok f =>
    refine .ite (fun _ => .error _) fun _ => .ite (fun _ => .error _) fun _ =>
      .ite (fun _ => .error _) fun hcap => .ok (Advances.put ?_ .dat ?_)
    · exact (Advances.refl .tcParse s).extend (keeps_putTc s f _ _) fun hi =>
        { hi with vfailBits := parseAdvisory_highZero _ _ _ _ }
    · rw [List.length_drop, State.length_slice, ← Nat.sub_sub]
      exact Nat.le_of_not_lt hcap

theorem execTcAck_advances (m : BitVec 4) : NextIs (Advances (.tcAck m) s) (execTcAck m s) :=
  (Advances.refl _ s).finish _ (.ok ((Advances.refl _ s).withResult _))

theorem execTcReqid_advances : NextIs (Advances .tcReqid s) (execTcReqid s) := by
  have hv := (Advances.refl .tcReqid s).withVfail (hdrChecks_highZero true s.regs)
  exact hv.finish _ (.ite (fun _ => .error _) fun _ =>
    .ok (hv.extend (keeps_set _ .reqid _) fun hi => { hi with }))

/-! ### Telemetry packets -/

theorem execTmVal_advances : NextIs (Advances .tmVal s) (execTmVal s) :=
  (Advances.refl _ s).finish _
    (.ok (((Advances.refl _ s).withVfail (tmMask_shows s).highZero).withResult _))

theorem execTmPack_advances : NextIs (Advances .tmPack s) (execTmPack s) := by
  have hv := (Advances.refl .tmPack s).withVfail (tmMask_shows s).highZero
  refine hv.finish _ ?_
  cases hraise : packRaise s (tmMask s) with
  | some e => exact .error e
  | none =>
    have hfits := packet_fits_of_packRaise (tmMask_shows s) hraise (by decide)
    have hpass {k : Nat} := not_checkFails_of_packRaise (tmMask_shows s) hraise (k := k)
    have hcnt : s.regs.tmCntW.toNat ≤ 8 := Nat.le_of_not_lt (hpass (k := 14) (by decide) (by decide))
    have hdst : s.regs.tmDstW.toNat ≤ 8 := Nat.le_of_not_lt (hpass (k := 16) (by decide) (by decide))
    have hfmt : FormatFits s.regs := not_not.1 (hpass (k := 18) (by decide) (by decide))
    refine .ok ((hv.putPacket 0 1 ?_).extend (keeps_withTypeFlag _ 0 1) (·.withTypeFlag 0 1))
    rw [length_tmPayload hcnt hdst hfmt]
    exact hfits

/-- What TM.PARSE writes besides the frame and the time field (44_pus_tm.md R197). -/
theorem advances_putTm (f : Frame) (cw dw : Nat) (p : Bytes) {x : TimeField} (hused : x.used ≤ 19) :
    Advances .tmParse s { s with regs := s.regs.putTm f cw dw p x } := by
  have hframe := (Advances.refl .tmParse s).extend (keeps_putFrame s f) (·.putFrame f)
  have htime := hframe.extend (keeps_putTime _ x) (·.putTime hused)
  exact htime.extend (keeps_regs _ [.pusv, .stat, .svc, .sub, .cnt, .dst, .vfail]) fun hi =>
    { hi with vfailBits := parseAdvisory_highZero _ _ _ _ }

theorem execTmParse_advances : NextIs (Advances .tmParse s) (execTmParse s) := by
  refine .ite (Advances.finish ((Advances.refl _ s).withVfail (tmWidthMask_highZero _)) _ (.error _))
    ((Advances.refl _ s).finish _ ?_)
  cases frameSplit s with
  | error e => exact .error e
  | ok f =>
    refine .ite (fun _ => .error _) fun _ => .ite (fun _ => .error _) fun _ => ?_
    rcases cucDec_cases s.regs
        ((s.slice .pkt 6 f.pl).drop (3 + s.regs.tmCntW.toNat + s.regs.tmDstW.toNat)) with
      ⟨x, hx, -, -, -, -, -, -, -, -, hused, -⟩ | ⟨e, he, -⟩
    · rw [hx]
      refine .ite (fun _ => .error _) fun hcap =>
        .ok ((advances_putTm s f _ _ _ hused).put .dat ?_)
      rw [List.length_drop, State.length_slice, ← Nat.sub_sub]
      exact Nat.le_of_not_lt hcap
    · rw [he]
      exact .error e

/-! ### Every operation -/

/-- Every operation ends, and writes only what is listed for it; from a state that meets the invariant it
ends in one (60_exceptions.md R240, 10_state.md R47, 20_memory.md R61). -/
theorem exec_advances (i : Instr) : NextIs (Advances i s) (exec i s) := by
  cases i with
  | sysNop => exact execSysNop_advances s
  | sysClrerr => exact execSysClrerr_advances s
  | sysReset => exact execSysReset_advances s
  | crcInit => exact execCrcInit_advances s
  | crcByte byte => exact execCrcByte_advances s byte
  | crcBuf b => exact execCrcBuf_advances s b
  | crcAppend => exact execCrcAppend_advances s
  | crcCheck => exact execCrcCheck_advances s
  | cucVal => exact execCucVal_advances s
  | cucPenc => exact execCucPenc_advances s
  | cucPdec => exact execCucPdec_advances s
  | cucEnc => exact execCucEnc_advances s
  | cucDec => exact execCucDec_advances s
  | cucFromdt => exact execCucFromdt_advances s
  | cucTofix => exact execCucTofix_advances s
  | spVal => exact execSpVal_advances s
  | spPack => exact execSpPack_advances s
  | spParse => exact execSpParse_advances s
  | tcVal => exact execTcVal_advances s
  | tcPack => exact execTcPack_advances s
  | tcParse => exact execTcParse_advances s
  | tcAck m => exact execTcAck_advances s m
  | tcReqid => exact execTcReqid_advances s
  | tmVal => exact execTmVal_advances s
  | tmPack => exact execTmPack_advances s
  | tmParse => exact execTmParse_advances s

variable {s} {t : State}

theorem advances_of_exec {i : Instr} (h : exec i s = .next t) : Advances i s t := by
  obtain ⟨u, hu, hadv⟩ := exec_advances s i
  obtain rfl : u = t := by simpa [hu] using h
  exact hadv

end Sys2Proof.Machine
end

section
/-! PROOFS. What operations may write, and the invariant of every run (10_state.md R25 to R29, R43, R45, R47,
20_memory.md R61). -/

namespace Sys2Proof.Machine

variable {s t : State}

/-- Settles O56: `Advances` holds of every operation. -/
theorem onlyListedWrites : Obligations.OnlyListedWrites := by
  intro i s t h
  obtain ⟨hregs, hbufs, hworld⟩ := (advances_of_exec h).keeps
  exact ⟨hregs, fun hi => hbufs .pkt (mt pkt_mem_writableBuffers.1 hi),
    fun hi => hbufs .dat (mt dat_mem_writableBuffers.1 hi), hworld⟩

/-! ### One transaction -/

/-- What a transaction keeps: the invariant and the parameters (log entry 2). -/
def KeepsInv (s t : State) : Prop := t.Inv ∧ t.params = s.params

theorem keepsInv_of_command {w : CmdWord} (h : s.Inv) (hc : command w s = .next t) : KeepsInv s t := by
  rcases command_cases w s with ⟨i, -, he⟩ | ⟨d, -, he⟩
  · have hadv := advances_of_exec (he.symm.trans hc)
    exact ⟨hadv.inv h, hadv.params⟩
  · cases he.symm.trans hc
    exact ⟨h.raise w _, rfl⟩

theorem keepsInv_of_regWrite {n v : Nat} (h : s.Inv) (hw : regWrite n v s = .next t) : KeepsInv s t := by
  rcases regWrite_cases n v s with he | he | ⟨r, hr, he⟩ | he
  · cases he.symm.trans hw
    exact ⟨h, rfl⟩
  · exact keepsInv_of_command h (he.symm.trans hw)
  · cases he.symm.trans hw
    exact ⟨h.set hr _, rfl⟩
  · cases he.symm.trans hw

theorem keepsInv_bufWrite (h : s.Inv) (b : BufSel) (i : Nat) (v : Byte) :
    KeepsInv s (bufWrite b i v s) := by
  by_cases hi : i < s.capacity b
  · rw [bufWrite_inside v hi]
    exact ⟨h.writeByte hi v, by cases b <;> rfl⟩
  · rw [bufWrite_beyond v (Nat.le_of_not_lt hi)]
    exact ⟨h, rfl⟩

theorem keepsInv_hardReset (h : s.Inv) : KeepsInv s (hardReset s) :=
  ⟨inv_of_reset_regs rfl h.params .nil .nil (fun _ h => nomatch h) (fun _ h => nomatch h), rfl⟩

theorem State.Inv.answer (h : s.Inv) (v : Nat) : (s.answer v).Inv := { h with }

theorem keepsInv_of_hostEvent {e : HostEvent} (h : s.Inv) (he : hostEvent e s = .next t) :
    KeepsInv s t := by
  cases e with
  | regRead n =>
    cases he
    exact ⟨h.answer _, rfl⟩
  | regWrite n v => exact keepsInv_of_regWrite h he
  | bufRead b i =>
    cases he
    exact ⟨h.answer _, rfl⟩
  | bufWrite b i v =>
    cases he
    exact keepsInv_bufWrite h b i v
  | hardReset =>
    cases he
    exact keepsInv_hardReset h

/-- Settles O4, by the transaction that takes place next. -/
theorem stepKeepsInvariant : Obligations.StepKeepsInvariant := by
  intro s t h hstep
  cases hp : s.pending with
  | nil =>
    cases (step_idle hp).symm.trans hstep
    exact ⟨h, rfl⟩
  | cons e rest =>
    have hrest : ({ s with pending := rest }).Inv := { h with }
    obtain ⟨hinv, hparams⟩ := keepsInv_of_hostEvent hrest ((step_event hp).symm.trans hstep)
    exact ⟨hinv, hparams⟩

end Sys2Proof.Machine
end

section
/-! PROOFS. The command words: the decoder and the encoder are inverse, and the legal words are those of the
opcode map (30_encoding.md R80 to R88). -/

namespace Sys2Proof.Machine

/-! ### The two fields of a command word (30_encoding.md R80) -/

/-- The immediate of a command word, bits 7:0 (30_encoding.md R80). -/
def CmdImm (w : CmdWord) : Byte := w.extractLsb' 0 8

theorem cmdOp_append_cmdImm (w : CmdWord) : CmdOp w ++ CmdImm w = w :=
  BitVec.extractLsb'_append_extractLsb'

@[simp] theorem cmdOp_encode (i : Instr) : CmdOp (encode i) = opcodeOf i :=
  (Laws.OpcodeField.fields i).1

@[simp] theorem cmdImm_encode (i : Instr) : CmdImm (encode i) = immediateOf i :=
  (Laws.OpcodeField.fields i).2

/-- A command word is determined by its two fields. -/
theorem encode_eq_iff (i : Instr) (w : CmdWord) :
    encode i = w ↔ CmdOp w = opcodeOf i ∧ CmdImm w = immediateOf i := by
  constructor
  · rintro rfl
    exact ⟨cmdOp_encode i, cmdImm_encode i⟩
  · rintro ⟨hop, himm⟩
    rw [encode, ← hop, ← himm, cmdOp_append_cmdImm]

/-! ### What the format decoders accept (30_encoding.md R81, R83, R84) -/

theorem decodeN_eq_ok_iff {imm : Byte} {i j : Instr} : decodeN imm i = .ok j ↔ imm = 0 ∧ j = i := by
  constructor
  · intro h
    unfold decodeN at h
    split at h
    · next h0 => cases h; exact ⟨h0, rfl⟩
    · cases h
  · rintro ⟨rfl, rfl⟩
    rfl

theorem decodeB_eq_ok_iff {imm : Byte} {j : Instr} :
    decodeB imm = .ok j ↔ ∃ b, j = .crcBuf b ∧ imm = immediateOf (.crcBuf b) := by
  constructor
  · intro h
    unfold decodeB at h
    split at h
    · next h0 => cases h; exact ⟨.pkt, rfl, h0⟩
    · split at h
      · next h1 => cases h; exact ⟨.dat, rfl, h1⟩
      · cases h
  · rintro ⟨b, rfl, rfl⟩
    cases b <;> rfl

theorem decodeA_eq_ok_iff {imm : Byte} {j : Instr} :
    decodeA imm = .ok j ↔ ∃ m, oneHot m = true ∧ j = .tcAck m ∧ imm = immediateOf (.tcAck m) := by
  constructor
  · intro h
    unfold decodeA at h
    split at h
    · next hmask =>
      obtain ⟨hhigh, hlow⟩ := hmask
      cases h
      refine ⟨_, hlow, rfl, ?_⟩
      have hfields : imm.extractLsb' 4 4 ++ imm.extractLsb' 0 4 = imm :=
        BitVec.extractLsb'_append_extractLsb'
      rw [hhigh] at hfields
      exact hfields.symm
    · cases h
  · rintro ⟨m, hm, rfl, rfl⟩
    revert m
    decide

/-! ### Decoding and encoding -/

/-- What a word decodes to has the word's two fields as its opcode and its immediate. -/
theorem fields_of_decode {w : CmdWord} {i : Instr} (h : decode w = .ok i) :
    CmdOp w = opcodeOf i ∧ CmdImm w = immediateOf i := by
  unfold decode at h
  dsimp only at h
  split at h
  case h_5 hop =>
    cases h
    exact ⟨BitVec.eq_of_toNat_eq hop, rfl⟩
  case h_6 hop =>
    obtain ⟨b, rfl, himm⟩ := decodeB_eq_ok_iff.1 h
    exact ⟨BitVec.eq_of_toNat_eq hop, himm⟩
  case h_22 hop =>
    obtain ⟨m, -, rfl, himm⟩ := decodeA_eq_ok_iff.1 h
    exact ⟨BitVec.eq_of_toNat_eq hop, himm⟩
  case h_27 => cases h
  all_goals
    next hop =>
    obtain ⟨himm, rfl⟩ := decodeN_eq_ok_iff.1 h
    exact ⟨BitVec.eq_of_toNat_eq hop, himm⟩

theorem decode_encode {i : Instr} (h : i.wellFormed = true) : decode (encode i) = .ok i := by
  obtain ⟨hop, himm⟩ := Laws.OpcodeField.fields i
  unfold decode
  rw [hop, himm]
  cases i with
  | crcBuf b => exact decodeB_eq_ok_iff.2 ⟨b, rfl, rfl⟩
  | tcAck m => exact decodeA_eq_ok_iff.2 ⟨m, h, rfl, rfl⟩
  | _ => rfl

/-- Settles O5: what decodes is well formed (`decode_wellFormed`) and has the word's fields
(`fields_of_decode`), and the word of a well-formed operation decodes to it (`decode_encode`). -/
theorem decodeInvertsEncode : Obligations.DecodeInvertsEncode := by
  intro w i
  constructor
  · intro h
    exact ⟨decode_wellFormed h, (encode_eq_iff i w).2 (fields_of_decode h)⟩
  · rintro ⟨hwf, rfl⟩
    exact decode_encode hwf

/-- Settles O7: each word evaluates to its operation. -/
theorem knownWordsDecode : Obligations.KnownWordsDecode :=
  ⟨rfl, rfl, rfl, rfl, rfl, rfl, rfl⟩

/-! ### The opcode map (30_encoding.md R86) -/

/-- The format of an operation's command word (30_encoding.md R86). -/
def formatOf : Instr → ImmFormat
  | .crcByte _ => .byte
  | .crcBuf _ => .buffer
  | .tcAck _ => .ackFlag
  | _ => .none

/-- One operation for each row of the opcode map, in its order. -/
def rowOperations : List Instr :=
  [.sysNop, .sysClrerr, .sysReset, .crcInit, .crcByte 0, .crcBuf .pkt, .crcAppend, .crcCheck, .cucVal,
    .cucPenc, .cucPdec, .cucEnc, .cucDec, .cucFromdt, .cucTofix, .spVal, .spPack, .spParse, .tcVal,
    .tcPack, .tcParse, .tcAck 1, .tcReqid, .tmVal, .tmPack, .tmParse]

/-- Every row of the opcode map is the row of an operation. -/
theorem opcodeMap_eq :
    opcodeMap = rowOperations.map fun i => ((opcodeOf i).toNat, formatOf i) := rfl

/-- Every operation has its row in the opcode map. -/
theorem mem_opcodeMap (i : Instr) : ((opcodeOf i).toNat, formatOf i) ∈ opcodeMap := by
  cases i <;> simp [opcodeMap, opcodeOf, formatOf]

theorem formatOf_allows {i : Instr} (h : i.wellFormed = true) :
    (formatOf i).allows (immediateOf i).toNat := by
  cases i with
  | crcByte byte => exact byte.isLt
  | crcBuf b => cases b <;> simp [formatOf, ImmFormat.allows, immediateOf]
  | tcAck m =>
    revert m
    simp only [formatOf, ImmFormat.allows, immediateOf, Instr.wellFormed]
    decide
  | _ => rfl

/-- Every immediate an operation's format allows makes a well-formed operation of that opcode. -/
theorem exists_wellFormed_of_allows (i : Instr) {v : Nat} (h : (formatOf i).allows v) :
    ∃ j : Instr, j.wellFormed = true ∧ opcodeOf j = opcodeOf i ∧ (immediateOf j).toNat = v := by
  cases i with
  | crcByte _ => exact ⟨.crcByte (BitVec.ofNat 8 v), rfl, rfl, Nat.mod_eq_of_lt h⟩
  | crcBuf _ =>
    rcases h with rfl | rfl
    · exact ⟨.crcBuf .pkt, rfl, rfl, rfl⟩
    · exact ⟨.crcBuf .dat, rfl, rfl, rfl⟩
  | tcAck _ =>
    rcases h with rfl | rfl | rfl | rfl
    · exact ⟨.tcAck 1, rfl, rfl, rfl⟩
    · exact ⟨.tcAck 2, rfl, rfl, rfl⟩
    · exact ⟨.tcAck 4, rfl, rfl, rfl⟩
    · exact ⟨.tcAck 8, rfl, rfl, rfl⟩
  | _ =>
    obtain rfl := h
    exact ⟨_, rfl, rfl, rfl⟩

/-- A word that decodes is that of an operation, whose row of the map allows its immediate. -/
theorem legalWord_of_decode {w : CmdWord} {i : Instr} (h : decode w = .ok i) : LegalWord w := by
  obtain ⟨hop, himm⟩ := fields_of_decode h
  have hallows : (formatOf i).allows (CmdImm w).toNat := himm ▸ formatOf_allows (decode_wellFormed h)
  exact ⟨_, mem_opcodeMap i, congrArg _ hop, hallows⟩

theorem exists_decode_of_legalWord {w : CmdWord} (h : LegalWord w) : ∃ i, decode w = .ok i := by
  obtain ⟨row, hrow, hop, hallows⟩ := h
  rw [opcodeMap_eq] at hrow
  obtain ⟨i, -, rfl⟩ := List.mem_map.1 hrow
  obtain ⟨j, hwf, hopj, himmj⟩ := exists_wellFormed_of_allows i hallows
  have hword : encode j = w :=
    (encode_eq_iff j w).2 ⟨(BitVec.eq_of_toNat_eq hop).trans hopj.symm, BitVec.eq_of_toNat_eq himmj.symm⟩
  exact ⟨j, hword ▸ decode_encode hwf⟩

theorem exists_decode_iff (w : CmdWord) : (∃ i, decode w = .ok i) ↔ LegalWord w :=
  ⟨fun ⟨_, h⟩ => legalWord_of_decode h, exists_decode_of_legalWord⟩

theorem exists_error_of_not_legalWord {w : CmdWord} (h : ¬LegalWord w) : ∃ e, decode w = .error e := by
  cases hd : decode w with
  | ok i => exact absurd (legalWord_of_decode hd) h
  | error e => exact ⟨e, rfl⟩

/-! ### The list of the legal words (30_encoding.md R87) -/

/-- The immediates a format allows, as a list. -/
def ImmFormat.immediates : ImmFormat → List Nat
  | .none => [0]
  | .byte => List.range 256
  | .buffer => [0, 1]
  | .ackFlag => [1, 2, 4, 8]

theorem mem_immediates (f : ImmFormat) (v : Nat) : v ∈ f.immediates ↔ f.allows v := by
  cases f <;> simp [ImmFormat.immediates, ImmFormat.allows]

theorem nodup_immediates (f : ImmFormat) : f.immediates.Nodup := by
  cases f with
  | byte => exact List.nodup_range
  | _ => decide

theorem lt_of_mem_immediates {f : ImmFormat} {v : Nat} (h : v ∈ f.immediates) : v < 256 := by
  rw [mem_immediates] at h
  cases f <;> simp only [ImmFormat.allows] at h <;> omega

/-- The command word with opcode `op` and immediate `v`. -/
def wordOf (op v : Nat) : CmdWord := BitVec.ofNat 8 op ++ BitVec.ofNat 8 v

/-- The legal words with the opcode and the format of one row of the map. -/
def rowWords (row : Nat × ImmFormat) : List CmdWord := row.2.immediates.map (wordOf row.1)

/-- The legal words, row by row of the opcode map. -/
def legalWords : List CmdWord := opcodeMap.flatMap rowWords

@[simp] theorem toNat_cmdOp_wordOf (op v : Nat) : (CmdOp (wordOf op v)).toNat = op % 256 := by
  rw [CmdOp, wordOf, BitVec.extractLsb'_append_eq_left]
  rfl

@[simp] theorem toNat_cmdImm_wordOf (op v : Nat) : (CmdImm (wordOf op v)).toNat = v % 256 := by
  rw [CmdImm, wordOf, BitVec.extractLsb'_append_eq_right]
  rfl

theorem wordOf_fields (w : CmdWord) : wordOf (CmdOp w).toNat (CmdImm w).toNat = w := by
  simp only [wordOf, BitVec.ofNat_toNat, BitVec.setWidth_eq, cmdOp_append_cmdImm]

theorem opcode_lt_of_mem : ∀ row ∈ opcodeMap, row.1 < 256 := by decide

theorem mem_rowWords {row : Nat × ImmFormat} (hrow : row ∈ opcodeMap) (w : CmdWord) :
    w ∈ rowWords row ↔ (CmdOp w).toNat = row.1 ∧ row.2.allows (CmdImm w).toNat := by
  simp only [rowWords, List.mem_map]
  constructor
  · rintro ⟨v, hv, rfl⟩
    rw [toNat_cmdOp_wordOf, toNat_cmdImm_wordOf, Nat.mod_eq_of_lt (opcode_lt_of_mem row hrow),
      Nat.mod_eq_of_lt (lt_of_mem_immediates hv)]
    exact ⟨rfl, (mem_immediates _ _).1 hv⟩
  · rintro ⟨hop, hallows⟩
    exact ⟨_, (mem_immediates _ _).2 hallows, hop ▸ wordOf_fields w⟩

theorem mem_legalWords (w : CmdWord) : w ∈ legalWords ↔ LegalWord w := by
  rw [legalWords, List.mem_flatMap]
  exact exists_congr fun row => and_congr_right fun hrow => mem_rowWords hrow w

theorem nodup_rowWords (row : Nat × ImmFormat) : (rowWords row).Nodup := by
  refine (nodup_immediates row.2).map_on fun u hu v hv huv => ?_
  have himm := congrArg (fun w => (CmdImm w).toNat) huv
  simpa [Nat.mod_eq_of_lt (lt_of_mem_immediates hu), Nat.mod_eq_of_lt (lt_of_mem_immediates hv)]
    using himm

theorem opcodes_distinct : opcodeMap.Pairwise fun row row' => row.1 ≠ row'.1 := by decide

/-- Rows of the map differ in their opcode, and the words of one row in their immediate. -/
theorem nodup_legalWords : legalWords.Nodup := by
  refine List.nodup_flatMap.2 ⟨fun row _ => nodup_rowWords row, ?_⟩
  refine opcodes_distinct.imp_of_mem fun hrow hrow' hne w hw hw' => hne ?_
  exact ((mem_rowWords hrow w).1 hw).1.symm.trans ((mem_rowWords hrow' w).1 hw').1

theorem length_legalWords : legalWords.length = 285 := by
  simp [legalWords, rowWords, opcodeMap, ImmFormat.immediates]

/-- Settles O6: the operations and the rows of the opcode map agree (`exists_decode_iff`), and the words of
the map are listed row by row. -/
theorem legalWordsAreTheMap : Obligations.LegalWordsAreTheMap :=
  ⟨exists_decode_iff, fun _ => exists_error_of_not_legalWord,
    legalWords, nodup_legalWords, length_legalWords, mem_legalWords⟩

/-! ### Illegal words (30_encoding.md R88) -/

theorem command_of_error {w : CmdWord} {e : DecodeError} (h : decode w = .error e) (s : State) :
    command w s = .next (s.raise w (.illegal w)) := by
  simp only [command, h]

/-- E_ILLEGAL is error 7, and ERRINFO is the word (30_encoding.md R88, 60_exceptions.md R242). -/
theorem raisesPlainly_illegal (w : CmdWord) (s : State) :
    RaisesPlainly w 7 w.toNat s (s.raise w (.illegal w)) := by
  have hinfo : (Err.illegal w).info.toNat = w.toNat := BitVec.toNat_setWidth_of_le (by decide)
  exact hinfo ▸ raisesPlainly_raise w (.illegal w) s

/-- No row of the map has an opcode of the unassigned ranges (30_encoding.md R88). -/
theorem assigned_of_mem_opcodeMap : ∀ row ∈ opcodeMap,
    ¬((0x03 ≤ row.1 ∧ row.1 ≤ 0x0F) ∨ (0x15 ≤ row.1 ∧ row.1 ≤ 0x1F) ∨ (0x27 ≤ row.1 ∧ row.1 ≤ 0x2F)
      ∨ (0x33 ≤ row.1 ∧ row.1 ≤ 0x3F) ∨ (0x45 ≤ row.1 ∧ row.1 ≤ 0x4F)
      ∨ (0x53 ≤ row.1 ∧ row.1 ≤ 0xFF)) := by
  decide

/-- Settles O9: an illegal word takes the raising branch of `command`, and a word with an unassigned opcode
has no row of the map, so it is not legal. -/
theorem illegalWordRaises : Obligations.IllegalWordRaises := by
  refine ⟨fun s rest w e hp he => ?_, fun w n hn hun => ?_⟩
  · exact ⟨_, (step_command hp).trans (command_of_error he _), raisesPlainly_illegal w _⟩
  · refine exists_error_of_not_legalWord ?_
    rintro ⟨row, hrow, hop, -⟩
    obtain rfl : n = row.1 := hn.symm.trans hop
    exact assigned_of_mem_opcodeMap row hrow hun

end Sys2Proof.Machine
end

section
/-! PROOFS. The CRC function: rounds are linear over exclusive or, the table form and the table-free form
are both eight rounds of the accumulator with the byte in its high half, and the CRC of a sequence cancels
against its own image (40_crc.md R101 to R104). -/

namespace Sys2Proof.Machine

/-! ### Rounds (40_crc.md R101) -/

theorem crcRound_xor (x y : BitVec 16) : crcRound (x ^^^ y) = crcRound x ^^^ crcRound y := by
  have hcancel : crcPoly ^^^ (y <<< 1 ^^^ crcPoly) = y <<< 1 := by
    rw [BitVec.xor_comm (y <<< 1), ← BitVec.xor_assoc, BitVec.xor_self, BitVec.zero_xor]
  simp only [crcRound, BitVec.getLsbD_xor, BitVec.shiftLeft_xor_distrib]
  cases x.getLsbD 15 <;> cases y.getLsbD 15
  · rfl
  · simp [BitVec.xor_assoc]
  · simp [BitVec.xor_assoc, BitVec.xor_comm crcPoly]
  · simp [BitVec.xor_assoc, hcancel]

theorem crcRounds_xor (n : Nat) (x y : BitVec 16) :
    crcRounds n (x ^^^ y) = crcRounds n x ^^^ crcRounds n y := by
  induction n generalizing x y with
  | zero => rfl
  | succ n ih => simp only [crcRounds, crcRound_xor, ih]

/-- While the high bits are clear no round subtracts the polynomial. -/
theorem crcRounds_of_high_clear {n : Nat} {x : BitVec 16}
    (h : ∀ i, 16 ≤ i + n → x.getLsbD i = false) : crcRounds n x = x <<< n := by
  induction n generalizing x with
  | zero => simp [crcRounds]
  | succ n ih =>
    have hround : crcRound x = x <<< 1 := by
      rw [crcRound, h 15 (by omega), if_neg Bool.false_ne_true]
    have hclear : ∀ i, 16 ≤ i + n → (x <<< 1).getLsbD i = false := fun i hi => by
      simp [BitVec.getLsbD_shiftLeft, h (i - 1) (by omega)]
    rw [crcRounds, hround, ih hclear, ← BitVec.shiftLeft_add, Nat.add_comm]

/-! ### The two forms of the fold (40_crc.md R102, R103) -/

/-- The byte in the high half and the low half of the accumulator do not meet (40_crc.md R102). -/
theorem xor_high_byte (c : BitVec 16) (b : Byte) :
    c ^^^ (b ++ 0#8) = (0#8 ++ c.extractLsb' 0 8) ^^^ ((c.extractLsb' 8 8 ^^^ b) ++ 0#8) := by
  ext i hi
  grind

/-- The low half only moves up in eight rounds: its high bits are clear. -/
theorem crcRounds_low_byte (c : BitVec 16) : crcRounds 8 (0#8 ++ c.extractLsb' 0 8) = c <<< 8 := by
  have hclear : ∀ i, 16 ≤ i + 8 → (0#8 ++ c.extractLsb' 0 8).getLsbD i = false := fun i hi => by
    rw [BitVec.getLsbD_append, if_neg (by omega), BitVec.getLsbD_zero]
  rw [crcRounds_of_high_clear hclear]
  ext i hi
  grind

/-- The table form runs the eight rounds on the high half alone and shifts the low half. -/
theorem crcStep_eq_crcRounds (c : BitVec 16) (b : Byte) :
    crcStep c b = crcRounds 8 (c ^^^ (b ++ 0#8)) := by
  rw [xor_high_byte, crcRounds_xor, crcRounds_low_byte, crcStep, crcTable]

/-- Message bit `k` meets bit 15 of the accumulator when `b` stands `15 - k` places up. -/
theorem crcRound_xor_byte (b : Byte) {k : Nat} (hk : k < 8) (c : BitVec 16) :
    crcRound (c ^^^ b.setWidth 16 <<< (16 - (k + 1))) =
      crcShift b k c ^^^ b.setWidth 16 <<< (16 - k) := by
  have hbit : (b.setWidth 16 <<< (16 - (k + 1))).getLsbD 15 = b.getLsbD k := by
    have hdist : 15 - (16 - (k + 1)) = k := by omega
    have hwidth : k < 16 := by omega
    simp only [BitVec.getLsbD_shiftLeft, BitVec.getLsbD_setWidth, hdist]
    simp [hwidth]
  have hplace : b.setWidth 16 <<< (16 - (k + 1)) <<< 1 = b.setWidth 16 <<< (16 - k) := by
    rw [← BitVec.shiftLeft_add, show 16 - (k + 1) + 1 = 16 - k by omega]
  rw [crcRound, crcShift, BitVec.getLsbD_xor, hbit, BitVec.shiftLeft_xor_distrib, hplace]
  split
  · rw [BitVec.xor_assoc, BitVec.xor_comm _ crcPoly, BitVec.xor_assoc]
  · rfl

theorem crcShifts_eq_crcRounds (b : Byte) {n : Nat} (hn : n ≤ 8) (c : BitVec 16) :
    crcShifts b n c = crcRounds n (c ^^^ b.setWidth 16 <<< (16 - n)) := by
  induction n generalizing c with
  | zero => simp [crcShifts, crcRounds]
  | succ k ih => rw [crcShifts, ih (by omega), crcRounds, crcRound_xor_byte b (by omega)]

theorem setWidth_shiftLeft_eight (b : Byte) : b.setWidth 16 <<< 8 = b ++ 0#8 := by
  ext i hi
  grind

/-- Settles O18: both forms are the eight rounds of the accumulator with the byte in its high half. -/
theorem crcTableIsSerial : Obligations.CrcTableIsSerial := by
  intro c b
  rw [crcStep_eq_crcRounds, crcStepSerial, crcShifts_eq_crcRounds b le_rfl, setWidth_shiftLeft_eight]

/-! ### Properties of the fold (40_crc.md R104) -/

/-- The big-endian image of a CRC is its two bytes. -/
theorem pecBytes_eq (c : BitVec 16) : pecBytes c = [c.extractLsb' 8 8, c.extractLsb' 0 8] := by
  simp [pecBytes, be, BitVec.extractLsb', Nat.shiftRight_eq_div_pow]

/-- The accumulator's own high byte cancels: the table entry of 0 is 0. -/
theorem crcStep_high_byte (c : BitVec 16) : crcStep c (c.extractLsb' 8 8) = c <<< 8 := by
  have hzero : crcTable 0#8 = 0#16 := by decide
  rw [crcStep, BitVec.xor_self, hzero, BitVec.xor_zero]

theorem crcFrom_pecBytes (c : BitVec 16) : crcFrom c (pecBytes c) = 0 := by
  have hlow : c.extractLsb' 0 8 = (c <<< 8).extractLsb' 8 8 := by
    ext i hi
    grind
  have hgone : c <<< 8 <<< 8 = 0 := by
    rw [← BitVec.shiftLeft_add]
    exact BitVec.shiftLeft_eq_zero le_rfl
  rw [pecBytes_eq, crcFrom, crcStep_high_byte, hlow, crcFrom, crcStep_high_byte, crcFrom, hgone]

/-- Settles O19: (b) is `crcFrom_append`, and (c) folds the CRC's own bytes into it after splitting there. -/
theorem crcProperties : Obligations.CrcProperties := by
  refine ⟨rfl, fun c s t => (crcFrom_append c s t).symm, fun s => ?_⟩
  rw [crc16, crcFrom_append]
  exact crcFrom_pecBytes (crc16 s)

end Sys2Proof.Machine
end

section
/-! PROOFS. The five CRC operations (40_crc.md R105 to R109). -/

namespace Sys2Proof.Machine

variable {s t : State}

/-- Completing writes the record and nothing else (60_exceptions.md R245). -/
theorem Keeps.complete {rs : List Reg} {bs : List BufSel} (h : Keeps rs bs s t) (w : CmdWord) :
    Keeps (.cmd :: .status :: .errinfo :: rs) bs s (t.complete w) :=
  (Keeps.refl _ _ s).extend h (fun _ hr => by simp [hr]) (List.Subset.refl _)
    |>.extend (keeps_complete w t) (fun _ hr => by simp at hr ⊢; tauto) (List.nil_subset _)

/-! ### CRC.INIT and CRC.BYTE (40_crc.md R105, R106) -/

/-- Settles O20: CRC.INIT writes the preset and completes. -/
theorem crcInitResult : Obligations.CrcInitResult := fun s =>
  ⟨_, rfl, rfl, completed_complete _ _, (keeps_withCrc s crcPreset).complete _⟩

/-- Settles O21: CRC.BYTE writes the table form of the step, which is the serial one (`crcTableIsSerial`). -/
theorem crcByteResult : Obligations.CrcByteResult := fun s byte =>
  ⟨_, rfl, crcTableIsSerial s.regs.crc byte, completed_complete _ _, (keeps_withCrc s _).complete _⟩

/-! ### CRC.BUF (40_crc.md R107) -/

theorem exec_crcBuf_within {b : BufSel} (h : s.lengthOf b ≤ s.capacity b) :
    exec (.crcBuf b) s = .next ((s.withCrc (crc16 (s.valid b))).complete (encode (.crcBuf b))) := by
  show execCrcBuf b s = _
  rw [execCrcBuf, if_neg (by omega), finish_ok]

theorem exec_crcBuf_beyond {b : BufSel} (h : s.capacity b < s.lengthOf b) :
    exec (.crcBuf b) s = .next (s.raise (encode (.crcBuf b)) (.capacity b)) := by
  show execCrcBuf b s = _
  rw [execCrcBuf, if_pos h, finish_error]

theorem encode_crcBuf (b : BufSel) : encode (.crcBuf b) = if b = .pkt then 0x1200 else 0x1201 := by
  cases b <;> rfl

/-- E_CAPACITY is error 8, and ERRINFO tells the buffer (60_exceptions.md R241, R242). -/
theorem raisesPlainly_capacity (w : CmdWord) (b : BufSel) (s : State) :
    RaisesPlainly w 8 (if b = .pkt then 0 else 1) s (s.raise w (.capacity b)) := by
  cases b with
  | pkt => exact raisesPlainly_raise w (.capacity .pkt) s
  | dat => exact raisesPlainly_raise w (.capacity .dat) s

/-- Settles O22, by the one test CRC.BUF makes. -/
theorem crcBufResult : Obligations.CrcBufResult := by
  intro s b
  rw [← encode_crcBuf]
  refine ⟨fun h => ⟨_, exec_crcBuf_within h, rfl, completed_complete _ _, ?_⟩, fun h => ?_⟩
  · exact (keeps_withCrc s _).complete _
  · exact ⟨_, exec_crcBuf_beyond h, raisesPlainly_capacity _ b s⟩

/-! ### CRC.APPEND (40_crc.md R108) -/

/-- What CRC.APPEND commits: the two bytes of `c` behind the packet, the new length and `c` itself. -/
def State.appendCrc (s : State) (c : BitVec 16) : State :=
  (((s.writeByte .pkt (s.lengthOf .pkt) (c.extractLsb' 8 8)).writeByte .pkt (s.lengthOf .pkt + 1)
    (c.extractLsb' 0 8)).withLength .pkt (s.lengthOf .pkt + 2)).withCrc c

theorem exec_crcAppend_within (h : s.lengthOf .pkt + 2 ≤ s.capacity .pkt) :
    exec .crcAppend s = .next ((s.appendCrc (crc16 (s.valid .pkt))).complete 0x1300) := by
  show execCrcAppend s = _
  rw [execCrcAppend, if_neg (by omega), finish_ok]
  rfl

theorem exec_crcAppend_beyond (h : s.capacity .pkt < s.lengthOf .pkt + 2) :
    exec .crcAppend s = .next (s.raise 0x1300 (.capacity .pkt)) := by
  show execCrcAppend s = _
  rw [execCrcAppend, if_pos (.inr h), finish_error]
  rfl

theorem byteAt_appendCrc_high (s : State) (c : BitVec 16) :
    (s.appendCrc c).byteAt .pkt (s.lengthOf .pkt) = c.extractLsb' 8 8 := by
  simp [State.appendCrc, State.byteAt_writeByte]

theorem byteAt_appendCrc_low (s : State) (c : BitVec 16) :
    (s.appendCrc c).byteAt .pkt (s.lengthOf .pkt + 1) = c.extractLsb' 0 8 := by
  simp [State.appendCrc, State.byteAt_writeByte]

theorem byteAt_appendCrc_other (s : State) (c : BitVec 16) {i : Nat} (hhigh : i ≠ s.lengthOf .pkt)
    (hlow : i ≠ s.lengthOf .pkt + 1) : (s.appendCrc c).byteAt .pkt i = s.byteAt .pkt i := by
  simp [State.appendCrc, State.byteAt_writeByte, hhigh, hlow]

theorem keeps_appendCrc (s : State) (c : BitVec 16) :
    Keeps [.crc, .pktLen] [.pkt] s (s.appendCrc c) :=
  (Keeps.refl _ _ s).extend (keeps_writeByte s .pkt _ _) (by decide) (by decide)
    |>.extend (keeps_writeByte _ .pkt _ _) (by decide) (by decide)
    |>.extend (keeps_withLength _ .pkt _) (by decide) (by decide)
    |>.extend (keeps_withCrc _ c) (by decide) (by decide)

/-- PKT_LEN can hold every length up to the capacity (log entry 2). -/
theorem pktCap_lt_of_ok {p : Params} (h : p.ok = true) : p.pktCap < 2 ^ 32 := by
  simp only [Params.ok, Bool.and_eq_true, decide_eq_true_eq] at h
  omega

theorem toNat_high_byte (c : BitVec 16) : (c.extractLsb' 8 8).toNat = c.toNat / 256 := by
  have := c.isLt
  rw [BitVec.extractLsb'_toNat, Nat.shiftRight_eq_div_pow]
  omega

theorem toNat_low_byte (c : BitVec 16) : (c.extractLsb' 0 8).toNat = c.toNat % 256 := by
  rw [BitVec.extractLsb'_toNat, Nat.shiftRight_zero]

/-- Settles O23: the two bytes are written one after the other, and the new length does not wrap because it
is within PKT_CAP. -/
theorem crcAppendResult : Obligations.CrcAppendResult := by
  intro s hok
  refine ⟨fun h => ⟨_, exec_crcAppend_within h, rfl, ?high, ?low, fun i hhigh hlow => ?other, ?length,
    completed_complete _ _, (keeps_appendCrc s _).complete _⟩, fun h => ?beyond⟩
  case high => exact (congrArg BitVec.toNat (byteAt_appendCrc_high s _)).trans (toNat_high_byte _)
  case low => exact (congrArg BitVec.toNat (byteAt_appendCrc_low s _)).trans (toNat_low_byte _)
  case other => exact byteAt_appendCrc_other s _ hhigh hlow
  case length => exact Nat.mod_eq_of_lt (h.trans_lt (pktCap_lt_of_ok hok))
  case beyond => exact ⟨_, exec_crcAppend_beyond h, raisesPlainly_capacity _ .pkt s⟩

/-! ### CRC.CHECK (40_crc.md R109) -/

/-- The CRC of what precedes the last two bytes of PKT. -/
def State.checkedCrc (s : State) : BitVec 16 := crc16 (s.slice .pkt 0 (s.lengthOf .pkt - 2))

/-- The last two bytes of PKT, as a PEC. -/
def State.receivedPec (s : State) : BitVec 16 :=
  BitVec.ofNat 16 (beVal (s.slice .pkt (s.lengthOf .pkt - 2) 2))

/-- What CRC.CHECK commits. -/
def State.checkCrc (s : State) : State :=
  ({ s with regs := { s.regs with crc := s.checkedCrc, pecRx := s.receivedPec } }).withResult
    (s.checkedCrc == s.receivedPec)

theorem exec_crcCheck_within (hmin : 2 ≤ s.lengthOf .pkt) (hcap : s.lengthOf .pkt ≤ s.capacity .pkt) :
    exec .crcCheck s = .next (s.checkCrc.complete 0x1400) := by
  show execCrcCheck s = _
  rw [execCrcCheck, if_neg (by omega), if_neg (by omega), finish_ok]
  rfl

theorem exec_crcCheck_beyond (h : s.capacity .pkt < s.lengthOf .pkt) :
    exec .crcCheck s = .next (s.raise 0x1400 (.capacity .pkt)) := by
  show execCrcCheck s = _
  rw [execCrcCheck, if_pos h, finish_error]
  rfl

theorem exec_crcCheck_short (hcap : s.lengthOf .pkt ≤ s.capacity .pkt) (h : s.lengthOf .pkt < 2) :
    exec .crcCheck s = .next (s.raise 0x1400 (.malformed .pec)) := by
  show execCrcCheck s = _
  rw [execCrcCheck, if_neg (by omega), if_pos h, finish_error]
  rfl

theorem keeps_checkCrc (s : State) : Keeps [.crc, .pecRx, .result] [] s s.checkCrc :=
  keeps_regs s _

theorem result_checkCrc (s : State) :
    s.checkCrc.regs.result = if s.checkedCrc = s.receivedPec then 1 else 0 := by
  simp [State.checkCrc]

theorem toNat_receivedPec (h : 2 ≤ s.lengthOf .pkt) :
    s.receivedPec.toNat =
      (s.byteAt .pkt (s.lengthOf .pkt - 2)).toNat * 256
        + (s.byteAt .pkt (s.lengthOf .pkt - 1)).toNat := by
  have hhigh := (s.byteAt .pkt (s.lengthOf .pkt - 2)).isLt
  have hlow := (s.byteAt .pkt (s.lengthOf .pkt - 1)).isLt
  have hlast : s.lengthOf .pkt - 2 + 1 = s.lengthOf .pkt - 1 := by omega
  simp only [State.receivedPec, State.slice, beVal, beValFrom, hlast, BitVec.toNat_ofNat]
  omega

/-- Settles O24, by the two tests CRC.CHECK makes, in their order. -/
theorem crcCheckResult : Obligations.CrcCheckResult := by
  intro s
  refine ⟨fun hmin hcap => ?completes, fun h => ?beyond, fun hcap h => ?short⟩
  case completes =>
    exact ⟨_, exec_crcCheck_within hmin hcap, rfl, toNat_receivedPec hmin,
      fun heq => (result_checkCrc s).trans (if_pos heq),
      fun hne => (result_checkCrc s).trans (if_neg hne),
      completed_complete _ _, (keeps_checkCrc s).complete _⟩
  case beyond => exact ⟨_, exec_crcCheck_beyond h, raisesPlainly_capacity _ .pkt s⟩
  case short => exact ⟨_, exec_crcCheck_short hcap h, raisesPlainly_raise _ (.malformed .pec) s⟩

end Sys2Proof.Machine
end

section
/-! PROOFS. Rounding to the nearest (41_cuc.md R140), and the P-field: the octets that `pf_enc` lays are those of
the tables, and `pf_dec` reads them back (41_cuc.md R122 to R124). -/

namespace Sys2Proof.Machine

/-! ### Rounding (41_cuc.md R140) -/

/-- Settles O28: `rhe` is the quotient or one above it, by where twice the remainder stands to the
divisor. -/
theorem roundsHalfToEven : Obligations.RoundsHalfToEven := by
  intro a d hd
  have hdiv : a / d * d + a % d = a := Nat.div_add_mod' a d
  have hmod : a % d < d := Nat.mod_lt a hd
  have hsucc : (a / d + 1) * d = a / d * d + d := Nat.succ_mul _ _
  unfold rhe
  dsimp only
  split
  · next hup => rw [hsucc]; omega
  · next hdown => omega

/-! ### The octets of a P-field (41_cuc.md R122, R123) -/

theorem toNat_append_eq_mul_add {n m : Nat} (x : BitVec n) (y : BitVec m) :
    (x ++ y).toNat = x.toNat * 2 ^ m + y.toNat := by
  rw [BitVec.toNat_append, ← Nat.shiftLeft_add_eq_or_of_lt y.isLt, Nat.shiftLeft_eq]

variable {basic frac tcid : Nat}

theorem pfieldBytes_of_overflow (hext : 4 < basic ∨ 3 < frac) :
    pfieldBytes basic frac tcid =
      [BitVec.ofNat 8 (128 + tcid * 16 + min (basic - 1) 3 * 4 + min frac 3),
        BitVec.ofNat 8 ((basic - 1 - min (basic - 1) 3) * 32 + (frac - min frac 3) * 4)] :=
  if_pos hext

theorem pfieldBytes_of_no_overflow (hext : ¬(4 < basic ∨ 3 < frac)) :
    pfieldBytes basic frac tcid = [BitVec.ofNat 8 (tcid * 16 + (basic - 1) * 4 + frac)] :=
  if_neg hext

theorem twoOctets_iff : twoOctets basic frac = true ↔ 4 < basic ∨ 3 < frac := by
  simp [twoOctets]

theorem length_pfieldBytes :
    (pfieldBytes basic frac tcid).length = if twoOctets basic frac then 2 else 1 := by
  by_cases hext : 4 < basic ∨ 3 < frac
  · rw [pfieldBytes_of_overflow hext, if_pos (twoOctets_iff.2 hext)]
    rfl
  · rw [pfieldBytes_of_no_overflow hext, if_neg (mt twoOctets_iff.1 hext)]
    rfl

/-- The bit fields of `pf_enc` and the sums of the tables are the same octets. -/
theorem pfEnc_eq_pfieldBytes (hmin : 1 ≤ basic) (hmax : basic ≤ 7) (hfrac : frac ≤ 10)
    (htcid : tcid ≤ 7) : pfEnc basic frac tcid = pfieldBytes basic frac tcid := by
  by_cases hext : 4 < basic ∨ 3 < frac
  · rw [pfieldBytes_of_overflow hext, pfEnc, twoOctets_iff.2 hext]
    rw [if_pos rfl]
    congr 2 <;> apply BitVec.eq_of_toNat_eq <;>
      simp only [toNat_append_eq_mul_add, BitVec.toNat_ofNat, BitVec.toNat_ofBool, Bool.toNat_true] <;>
      omega
  · rw [pfieldBytes_of_no_overflow hext, pfEnc, Bool.eq_false_iff.2 (mt twoOctets_iff.1 hext)]
    rw [if_neg Bool.false_ne_true]
    congr 1
    apply BitVec.eq_of_toNat_eq
    simp only [toNat_append_eq_mul_add, BitVec.toNat_ofNat, BitVec.toNat_ofBool, Bool.toNat_false]
    omega

/-- A sequence that starts with the octets of a format announces that format (41_cuc.md R124). -/
theorem wire_pfieldBytes (hmin : 1 ≤ basic) (hmax : basic ≤ 7) (hfrac : frac ≤ 10) (htcid : tcid ≤ 7)
    {b rest : Bytes} (hb : b = pfieldBytes basic frac tcid ++ rest) :
    wireOctets b = (pfieldBytes basic frac tcid).length ∧ wireBasic b = basic ∧ wireFrac b = frac
      ∧ wireTcid b = tcid ∧ (2 ≤ b.length → pfieldError b = none) := by
  by_cases hext : 4 < basic ∨ 3 < frac
  · rw [pfieldBytes_of_overflow hext] at hb ⊢
    have hfirst : octet b 0 = 128 + tcid * 16 + min (basic - 1) 3 * 4 + min frac 3 := by
      rw [hb, List.cons_append, octet_zero, BitVec.toNat_ofNat]
      omega
    have hsecond : octet b 1 = (basic - 1 - min (basic - 1) 3) * 32 + (frac - min frac 3) * 4 := by
      rw [hb, List.cons_append, List.cons_append, octet_one, BitVec.toNat_ofNat]
      omega
    have hlong : 128 ≤ octet b 0 := by omega
    refine ⟨if_pos hlong, ?_, ?_, ?_, fun hlen => ?_⟩
    · rw [wireBasic, if_pos hlong]
      omega
    · rw [wireFrac, if_pos hlong]
      omega
    · rw [wireTcid]
      omega
    · rw [pfieldError, if_neg (by omega), if_neg (by omega)]
  · rw [pfieldBytes_of_no_overflow hext] at hb ⊢
    have hfirst : octet b 0 = tcid * 16 + (basic - 1) * 4 + frac := by
      rw [hb, List.cons_append, octet_zero, BitVec.toNat_ofNat]
      omega
    have hshort : ¬128 ≤ octet b 0 := by omega
    refine ⟨if_neg hshort, ?_, ?_, ?_, fun hlen => ?_⟩
    · rw [wireBasic, if_neg hshort]
      omega
    · rw [wireFrac, if_neg hshort]
      omega
    · rw [wireTcid]
      omega
    · rw [pfieldError, if_neg (by omega), if_neg (by omega)]

/-- Settles O27: `pf_dec` reads the fields of the wire (`pfDec_cases`), and those of the laid octets are the
format (`wire_pfieldBytes`). -/
theorem pFieldLayout : Obligations.PFieldLayout := by
  refine ⟨fun basic frac tcid hmin hmax hfrac htcid => ?_, fun s p hp => ?_⟩
  · have hlay := pfEnc_eq_pfieldBytes hmin hmax hfrac htcid
    refine ⟨hlay, fun rest hlen => ?_⟩
    rw [hlay] at hlen ⊢
    obtain ⟨hoctets, hbasic, hfracs, htcids, herror⟩ :=
      wire_pfieldBytes hmin hmax hfrac htcid (rest := rest) rfl
    rcases pfDec_cases (pfieldBytes basic frac tcid ++ rest) with
      ⟨p, hp, -, -, -, -, -, -, hb, hf, ht, hn, -⟩ | ⟨e, -, he⟩
    · exact ⟨p, hp, hb.trans hbasic, hf.trans hfracs, ht.trans htcids, hn.trans hoctets⟩
    · rw [herror hlen] at he
      cases he
  · rcases pfDec_cases s with ⟨q, hq, -, hmin, hmax, hfrac, -, -, hb, hf, ht, hn, -⟩ | ⟨e, he, -⟩
    · cases hq.symm.trans hp
      exact ⟨hmin, hmax, hfrac, hb, hf, ht, hn⟩
    · cases he.symm.trans hp

end Sys2Proof.Machine
end

section
/-! PROOFS. The masks of the time checks, and the error each of them makes an operation raise (41_cuc.md
R125). -/

namespace Sys2Proof.Machine

variable {s : State} {m : Mask} {needTcid : Bool}

/-! ### What a time mask raises -/

theorem timeRaise_of_format (h : m.getLsbD 18 = true) : timeRaise m = some (.timefmt .registers) :=
  if_pos h

theorem timeRaise_of_range (h : m.getLsbD 18 = false) (hne : m ≠ 0) :
    timeRaise m = some (.range m) := by
  rw [timeRaise, if_neg (by rw [h]; decide), if_pos hne]

theorem timeRaise_zero : timeRaise 0 = none := rfl

theorem timeRaise_eq_none : timeRaise m = none ↔ m = 0 := by
  refine ⟨fun h => ?_, fun h => h ▸ timeRaise_zero⟩
  by_contra hne
  cases h18 : m.getLsbD 18 with
  | true => rw [timeRaise_of_format h18] at h; cases h
  | false => rw [timeRaise_of_range h18 hne] at h; cases h

/-- A time mask that is not 0 makes an operation raise E_RANGE or E_TIMEFMT (41_cuc.md R125). -/
theorem exists_timeRaise (h : m ≠ 0) :
    ∃ e, timeRaise m = some e ∧ (e.code = 2 ∨ e.code = 3) := by
  cases h18 : m.getLsbD 18 with
  | true => exact ⟨_, timeRaise_of_format h18, .inr rfl⟩
  | false => exact ⟨_, timeRaise_of_range h18 h, .inl rfl⟩

/-! ### The mask of `time_checks` -/

theorem fmtOk_of_fits {r : Regs} (h : FormatFits r) : r.fmtOk = true := (fmtOk_iff r).2 h

theorem fmtOk_of_not_fits {r : Regs} (h : ¬FormatFits r) : r.fmtOk = false :=
  Bool.eq_false_iff.2 (mt (fmtOk_iff r).1 h)

theorem timeChecks_eq_zero_iff : timeChecks needTcid s.regs = 0 ↔ TimeFits needTcid s.regs :=
  timeRaise_eq_none.symm.trans timeRaise_eq_none_iff

theorem timeChecks_format_bit (needTcid : Bool) (s : State) :
    (timeChecks needTcid s.regs).getLsbD 18 = true ↔ ¬FormatFits s.regs :=
  (timeChecks_shows s 0 needTcid 18).trans ⟨fun h => h.2, fun h => ⟨by decide, h⟩⟩

theorem timeRaise_timeChecks_of_format (needTcid : Bool) (h : ¬FormatFits s.regs) :
    timeRaise (timeChecks needTcid s.regs) = some (.timefmt .registers) :=
  timeRaise_of_format ((timeChecks_format_bit needTcid s).2 h)

theorem timeRaise_timeChecks_of_range (hfmt : FormatFits s.regs) (h : ¬TimeFits needTcid s.regs) :
    timeRaise (timeChecks needTcid s.regs) = some (.range (timeChecks needTcid s.regs)) :=
  timeRaise_of_range
    (Bool.eq_false_iff.2 fun hbit => (timeChecks_format_bit needTcid s).1 hbit hfmt)
    (mt timeChecks_eq_zero_iff.1 h)

/-- A value out of range shows only where the format is legal (41_cuc.md R125). -/
theorem timeChecks_of_not_format (h : ¬FormatFits s.regs) : timeChecks false s.regs = 0x00040000 := by
  simp only [timeChecks, fmtOk_of_not_fits h, Bool.false_and, Bool.not_false]
  rfl

theorem not_someRequiredFails_iff :
    ¬SomeRequiredFails cucCheckList s 0 needTcid ↔ timeChecks needTcid s.regs = 0 := by
  rw [mask_zero_iff (timeChecks_shows s 0 needTcid), SomeRequiredFails]
  have hrequired : ∀ k ∈ cucCheckList, k ≤ 23 := by decide
  exact ⟨fun h k hk hfails => h ⟨k, hk, hrequired k hk, hfails⟩, fun h ⟨k, hk, _, hfails⟩ => h k hk hfails⟩

/-- The time flags that the mask of CUC.PENC keeps (41_cuc.md R132). -/
theorem flags_and_penc : ∀ format tcid sec frc : Bool,
    (flagBit 18 format ||| flagBit 19 tcid ||| flagBit 20 sec ||| flagBit 21 frc) &&& 0x000C0000 =
      flagBit 18 format ||| flagBit 19 tcid := by
  decide

/-- The time flags that the mask of CUC.FROMDT keeps (41_cuc.md R142). -/
theorem flags_and_fromdt : ∀ format tcid sec frc : Bool,
    (flagBit 18 format ||| flagBit 19 tcid ||| flagBit 20 sec ||| flagBit 21 frc) &&& 0x00040000 =
      flagBit 18 format := by
  decide

theorem pencMask_eq (r : Regs) :
    timeChecks true r &&& 0x000C0000 = flagBit 18 (!r.fmtOk) ||| flagBit 19 (7 < r.cucTcid.toNat) :=
  flags_and_penc _ _ _ _

theorem pencMask_of_fits {r : Regs} (h : FormatFits r) (htcid : r.cucTcid.toNat ≤ 7) :
    timeChecks true r &&& 0x000C0000 = 0 := by
  rw [pencMask_eq, fmtOk_of_fits h, decide_eq_false (Nat.not_lt.2 htcid)]
  rfl

theorem pencMask_of_tcid {r : Regs} (h : FormatFits r) (htcid : 7 < r.cucTcid.toNat) :
    timeChecks true r &&& 0x000C0000 = 0x00080000 := by
  rw [pencMask_eq, fmtOk_of_fits h, decide_eq_true htcid]
  rfl

theorem pencMask_of_not_format {r : Regs} (h : ¬FormatFits r) :
    timeChecks true r &&& 0x000C0000 = if 7 < r.cucTcid.toNat then 0x000C0000 else 0x00040000 := by
  rw [pencMask_eq, fmtOk_of_not_fits h]
  split
  · next htcid => rw [decide_eq_true htcid]; rfl
  · next htcid => rw [decide_eq_false htcid]; rfl

end Sys2Proof.Machine
end

section
/-! PROOFS. CUC.VAL, CUC.PENC and CUC.PDEC (41_cuc.md R130, R132, R134). -/

namespace Sys2Proof.Machine

variable {s : State} {m : Mask} {e : Err}

/-! ### The time errors (60_exceptions.md R241, R242) -/

theorem raisesWithMask_timefmt (w : CmdWord) (m : Mask) (s : State) :
    RaisesWithMask w 3 0 m s ((s.withVfail m).raise w (.timefmt .registers)) :=
  raisesWithMask_raise w (.timefmt .registers) m s

theorem raisesWithMask_range (w : CmdWord) (m : Mask) (s : State) :
    RaisesWithMask w 2 m.toNat m s ((s.withVfail m).raise w (.range m)) :=
  raisesWithMask_raise w (.range m) m s

/-! ### CUC.VAL (41_cuc.md R130) -/

theorem exec_cucVal (s : State) :
    exec .cucVal s =
      .next (((s.withVfail (timeChecks s.regs.hasP s.regs)).withResult
        (timeChecks s.regs.hasP s.regs == 0)).complete 0x2000) := rfl

/-- Settles O29: VFAIL is the mask of the checks (`timeChecks_shows`), and RESULT tells whether it is 0. -/
theorem cucValReports : Obligations.CucValReports := by
  intro s
  refine ⟨⟨_, exec_cucVal s, ?shows, fun hfails => ?failed, fun hpass => ?passed, completed_complete _ _,
    ?keeps⟩, rfl⟩
  case shows =>
    rw [← hasP_eq]
    exact timeChecks_shows s 0 s.regs.hasP
  case failed =>
    rw [← hasP_eq] at hfails
    have hne := mt not_someRequiredFails_iff.2 (not_not.2 hfails)
    exact if_neg (mt beq_iff_eq.1 hne)
  case passed =>
    rw [← hasP_eq] at hpass
    exact if_pos (beq_iff_eq.2 (not_someRequiredFails_iff.1 hpass))
  case keeps =>
    exact (Keeps.refl _ _ s).extend (keeps_withVfail s _) (by decide) (by decide)
      |>.extend (keeps_withResult _ _) (by decide) (by decide) |>.complete _

/-! ### CUC.PENC (41_cuc.md R132) -/

/-- What CUC.PENC commits of the octets `p`. -/
def State.putPField (s : State) (p : Bytes) : State :=
  { s with
    regs :=
      { s.regs with
        pfield := p.getD 0 0 ++ p.getD 1 0
        pfLen := BitVec.ofNat 2 p.length
        cucUsed := BitVec.ofNat 8 p.length } }

theorem exec_cucPenc_refuses (hm : timeChecks true s.regs &&& 0x000C0000 = m)
    (he : timeRaise m = some e) : exec .cucPenc s = .next ((s.withVfail m).raise 0x2100 e) := by
  show execCucPenc s = _
  simp only [execCucPenc, hm, he, finish_error]
  rfl

theorem exec_cucPenc_completes (hm : timeChecks true s.regs &&& 0x000C0000 = 0) :
    exec .cucPenc s =
      .next (((s.withVfail 0).putPField
        (pfEnc s.regs.cucBasic.toNat s.regs.cucFrac.toNat s.regs.cucTcid.toNat)).complete 0x2100) := by
  show execCucPenc s = _
  simp only [execCucPenc, hm, timeRaise_zero, finish_ok]
  rfl

theorem toNat_pfield_putPField (s : State) (p : Bytes) :
    (s.putPField p).regs.pfield.toNat = octet p 0 * 256 + octet p 1 :=
  toNat_append_eq_mul_add (p.getD 0 0) (p.getD 1 0)

theorem length_pfieldBytes_le (basic frac tcid : Nat) : (pfieldBytes basic frac tcid).length ≤ 2 := by
  rw [length_pfieldBytes]
  split <;> omega

/-- Settles O30, by the two checks CUC.PENC makes (`pencMask_eq`); the octets it lays are those of the
tables. -/
theorem cucPencResult : Obligations.CucPencResult := by
  intro s
  refine ⟨fun hfmt htcid => ?completes, fun hfmt => ?format, fun hfmt htcid => ?tcid⟩
  case completes =>
    obtain ⟨hmin, hmax, hfrac⟩ := hfmt
    have hlay := pfEnc_eq_pfieldBytes hmin hmax hfrac htcid
    have hlen := length_pfieldBytes_le s.regs.cucBasic.toNat s.regs.cucFrac.toNat s.regs.cucTcid.toNat
    rw [← hlay] at hlen ⊢
    refine ⟨_, _, exec_cucPenc_completes (pencMask_of_fits ⟨hmin, hmax, hfrac⟩ htcid), rfl,
      toNat_pfield_putPField (s.withVfail 0) _, ?_, ?_, rfl, completed_complete _ _, ?_⟩
    · exact Nat.mod_eq_of_lt (by omega)
    · exact Nat.mod_eq_of_lt (by omega)
    · exact (keeps_regs s [.vfail, .pfield, .pfLen, .cucUsed]).complete _
  case format =>
    have hmask := pencMask_of_not_format hfmt
    refine ⟨_, exec_cucPenc_refuses hmask (timeRaise_of_format ?_), raisesWithMask_timefmt _ _ s⟩
    split <;> rfl
  case tcid =>
    exact ⟨_, exec_cucPenc_refuses (pencMask_of_tcid hfmt htcid) rfl, raisesWithMask_range _ _ s⟩

/-! ### CUC.PDEC (41_cuc.md R134) -/

/-- What CUC.PDEC commits of a P-field. -/
def State.takePField (s : State) (p : PField) : State :=
  { s with
    regs :=
      { s.regs with
        cucBasic := BitVec.ofNat 8 p.basic
        cucFrac := BitVec.ofNat 8 p.frac
        cucTcid := p.tcid.setWidth 32
        pfield := p.o1 ++ p.o2
        pfLen := BitVec.ofNat 2 p.n
        cucUsed := BitVec.ofNat 8 p.n
        vfail := 0 } }

theorem exec_cucPdec_beyond (h : s.capacity .dat < s.lengthOf .dat) :
    exec .cucPdec s = .next (s.raise 0x2200 (.capacity .dat)) := by
  show execCucPdec s = _
  rw [execCucPdec, if_pos h]
  rfl

theorem exec_cucPdec_refuses (h : s.lengthOf .dat ≤ s.capacity .dat)
    (he : pfDec (s.valid .dat) = .error e) : exec .cucPdec s = .next (s.raise 0x2200 e) := by
  show execCucPdec s = _
  rw [execCucPdec, if_neg (Nat.not_lt.2 h), he]
  rfl

theorem exec_cucPdec_completes {p : PField} (h : s.lengthOf .dat ≤ s.capacity .dat)
    (hp : pfDec (s.valid .dat) = .ok p) :
    exec .cucPdec s = .next ((s.takePField p).complete 0x2200) := by
  show execCucPdec s = _
  rw [execCucPdec, if_neg (Nat.not_lt.2 h), hp]
  rfl

/-- Settles O31, by the capacity check and what `pf_dec` can do (`pfDec_cases`). -/
theorem cucPdecResult : Obligations.CucPdecResult := by
  intro s
  refine ⟨fun hcap hnone => ?completes, fun hcap => ?beyond, fun code info hcap hsome => ?refuses⟩
  case completes =>
    rcases pfDec_cases (s.valid .dat) with
      ⟨p, hp, -, -, hbasic, hfrac, hn, -, hb, hf, ht, hoctets, ho1, ho2⟩ | ⟨e, -, he⟩
    · refine ⟨_, exec_cucPdec_completes hcap hp, ?_, ?_, ?_, ?_, ?_, ?_, rfl, completed_complete _ _, ?_⟩
      · exact (Nat.mod_eq_of_lt (by omega)).trans hb
      · exact (Nat.mod_eq_of_lt (by omega)).trans hf
      · exact (BitVec.toNat_setWidth_of_le (by decide)).trans ht
      · rw [← ho1, ← ho2]
        exact toNat_append_eq_mul_add p.o1 p.o2
      · exact (Nat.mod_eq_of_lt (by omega)).trans hoctets
      · exact (Nat.mod_eq_of_lt (by omega)).trans hoctets
      · exact (keeps_regs s _).complete _
    · rw [hnone] at he
      cases he
  case beyond => exact ⟨_, exec_cucPdec_beyond hcap, raisesPlainly_capacity _ .dat s⟩
  case refuses =>
    rcases pfDec_cases (s.valid .dat) with ⟨p, -, hp, -⟩ | ⟨e, he, herr⟩
    · rw [hp] at hsome
      cases hsome
    · cases herr.symm.trans hsome
      exact ⟨_, exec_cucPdec_refuses hcap he, raisesPlainly_raise _ e s⟩

end Sys2Proof.Machine
end

section
/-! PROOFS. CUC.ENC, and what CUC.VAL predicts of it (41_cuc.md R126, R130, R136). -/

namespace Sys2Proof.Machine

variable {s t : State} {e : Err}

/-! ### The time field (41_cuc.md R126) -/

/-- The P-field octets of a time field, where it has any (41_cuc.md R126). -/
def preambleBytes (r : Regs) : Bytes :=
  if r.cucHasp = 1 then pfieldBytes r.cucBasic.toNat r.cucFrac.toNat r.cucTcid.toNat else []

theorem timeBytes_eq (r : Regs) :
    timeBytes r =
      preambleBytes r ++ be r.cucBasic.toNat r.cucSec.toNat ++ be r.cucFrac.toNat r.cucFrc.toNat :=
  rfl

theorem length_timeBytes (r : Regs) :
    (timeBytes r).length = (preambleBytes r).length + r.cucBasic.toNat + r.cucFrac.toNat := by
  rw [timeBytes_eq, List.length_append, List.length_append, length_be, length_be]

theorem timeField_eq_timeBytes {r : Regs} (h : TimeFits r.hasP r) : r.timeField = timeBytes r := by
  obtain ⟨⟨hmin, hmax, hfrac⟩, htcid, -⟩ := h
  have hpre : (if r.hasP then pfEnc r.cucBasic.toNat r.cucFrac.toNat r.cucTcid.toNat else []) =
      preambleBytes r := by
    rw [preambleBytes, hasP_eq]
    by_cases hp : r.cucHasp = 1
    · rw [if_pos hp, if_pos (decide_eq_true hp)]
      exact pfEnc_eq_pfieldBytes hmin hmax hfrac (htcid (by rw [hasP_eq, decide_eq_true hp]))
    · rw [if_neg hp, if_neg (by rw [decide_eq_false hp]; exact Bool.false_ne_true)]
  rw [Regs.timeField, cucEnc, hpre, timeBytes_eq]

theorem length_timeBytes_le {r : Regs} (h : TimeFits r.hasP r) : (timeBytes r).length ≤ 19 :=
  timeField_eq_timeBytes h ▸ length_timeField_le h

/-! ### CUC.ENC (41_cuc.md R136) -/

/-- DAT after `put`, whatever is written to other registers afterwards (20_memory.md R71). -/
theorem dataIs_of_put {data : Bytes} (hbyte : ∀ i, t.byteAt .dat i = (s.put .dat data).byteAt .dat i)
    (hlen : t.regs.datLen.toNat = data.length) : DataIs s t data := by
  refine ⟨?_, hlen, fun i hi => ?_⟩
  · rw [State.valid, State.lengthOf, hlen, State.slice_congr fun i _ _ => hbyte i,
      State.slice_put s .dat data 0 _ (by omega), List.drop_zero, List.take_length]
  · rw [hbyte, State.byteAt_put, dif_neg (by omega)]

/-- What CUC.ENC commits of the time field. -/
def State.putTimeField (s : State) (out : Bytes) : State :=
  { s.put .dat out with
    regs := { (s.put .dat out).regs with cucUsed := BitVec.ofNat 8 out.length } }

theorem keeps_putTimeField (s : State) (out : Bytes) :
    Keeps [.datLen, .cucUsed] [.dat] s (s.putTimeField out) :=
  (Keeps.refl _ _ s).extend (keeps_put s .dat out) (by decide) (by decide)
    |>.extend (keeps_set _ .cucUsed _) (by decide) (by decide)

theorem exec_cucEnc_refuses (he : timeRaise (timeChecks s.regs.hasP s.regs) = some e) :
    exec .cucEnc s = .next ((s.withVfail (timeChecks s.regs.hasP s.regs)).raise 0x2300 e) := by
  show execCucEnc s = _
  simp only [execCucEnc, he, finish_error]
  rfl

theorem exec_cucEnc_beyond (h : TimeFits s.regs.hasP s.regs)
    (hcap : s.capacity .dat < (timeBytes s.regs).length) :
    exec .cucEnc s = .next ((s.withVfail 0).raise 0x2300 (.capacity .dat)) := by
  show execCucEnc s = _
  simp only [execCucEnc, timeChecks_eq_zero_iff.2 h, timeRaise_zero, timeField_eq_timeBytes h, if_pos hcap]
  rfl

theorem exec_cucEnc_completes (h : TimeFits s.regs.hasP s.regs)
    (hcap : (timeBytes s.regs).length ≤ s.capacity .dat) :
    exec .cucEnc s =
      .next (((s.withVfail 0).putTimeField (timeBytes s.regs)).complete 0x2300) := by
  show execCucEnc s = _
  simp only [execCucEnc, timeChecks_eq_zero_iff.2 h, timeRaise_zero, timeField_eq_timeBytes h,
    if_neg (Nat.not_lt.2 hcap)]
  rfl

theorem vfail_of_exec_cucVal (h : exec .cucVal s = .next t) :
    t.regs.vfail = timeChecks s.regs.hasP s.regs := by
  cases (exec_cucVal s).symm.trans h
  rfl

/-- Settles O32: CUC.ENC refuses what the mask refuses, then what DAT cannot hold, and lays the time field
otherwise. -/
theorem cucEncResult : Obligations.CucEncResult := by
  intro s
  rw [← hasP_eq]
  refine ⟨fun h hcap => ?completes, fun t ht hfmt => ?format, fun t ht hfmt h => ?range,
    fun h hcap => ?beyond⟩
  case completes =>
    have hlen := length_timeBytes_le h
    refine ⟨_, exec_cucEnc_completes h hcap, dataIs_of_put (fun i => ?_) (Nat.mod_eq_of_lt ?_),
      Nat.mod_eq_of_lt ?_, rfl, completed_complete _ _, ?_⟩
    · exact State.byteAt_congr rfl rfl i
    · omega
    · omega
    · exact (Keeps.refl [.vfail, .datLen, .cucUsed] [.dat] s).extend (keeps_withVfail s 0) (by decide)
        (by decide) |>.extend (keeps_putTimeField _ _) (by decide) (by decide) |>.complete _
  case format =>
    rw [vfail_of_exec_cucVal ht]
    exact ⟨_, exec_cucEnc_refuses (timeRaise_timeChecks_of_format _ hfmt), raisesWithMask_timefmt _ _ s⟩
  case range =>
    rw [vfail_of_exec_cucVal ht]
    exact ⟨_, exec_cucEnc_refuses (timeRaise_timeChecks_of_range hfmt h), raisesWithMask_range _ _ s⟩
  case beyond => exact ⟨_, exec_cucEnc_beyond h hcap, raisesWithMask_raise _ (.capacity .dat) 0 s⟩

/-- CUC.ENC completes only with a time that fits, its field within DAT. -/
theorem fits_of_exec_cucEnc (h : exec .cucEnc s = .next t) (hcode : errorCode t = 0) :
    TimeFits s.regs.hasP s.regs ∧ (timeBytes s.regs).length ≤ s.capacity .dat := by
  by_cases hfits : TimeFits s.regs.hasP s.regs
  · rcases Nat.lt_or_ge (s.capacity .dat) (timeBytes s.regs).length with hcap | hcap
    · cases (exec_cucEnc_beyond hfits hcap).symm.trans h
      rw [errorCode_raise] at hcode
      cases hcode
    · exact ⟨hfits, hcap⟩
  · obtain ⟨e, he, -⟩ := exists_timeRaise (mt timeChecks_eq_zero_iff.1 hfits)
    cases (exec_cucEnc_refuses he).symm.trans h
    rw [errorCode_raise] at hcode
    have := e.code_pos
    omega

/-! ### What CUC.VAL predicts (log entry 6) -/

theorem result_of_exec_cucVal (h : exec .cucVal s = .next t) :
    t.regs.result = if timeChecks s.regs.hasP s.regs = 0 then 1 else 0 := by
  cases (exec_cucVal s).symm.trans h
  simp

/-- Settles O58: both operations make the same checks, and CUC.ENC makes the test of the capacity after
them. -/
theorem cucValPredictsUpToCapacity : Obligations.CucValPredictsUpToCapacity := by
  intro s
  obtain ⟨t, ht⟩ : ∃ t, exec .cucVal s = .next t := ⟨_, exec_cucVal s⟩
  have hv := vfail_of_exec_cucVal ht
  have hr := result_of_exec_cucVal ht
  by_cases hm : timeChecks s.regs.hasP s.regs = 0
  · have hfits := timeChecks_eq_zero_iff.1 hm
    rw [if_pos hm] at hr
    rw [hm] at hv
    rcases Nat.lt_or_ge (s.capacity .dat) (timeBytes s.regs).length with hcap | hcap
    · refine ⟨t, _, ht, exec_cucEnc_beyond hfits hcap, hv.symm, ?_⟩
      have hover : s.params.datCap < (timeBytes s.regs).length := hcap
      simp [errorCode_raise, hr, Err.code, Err.info, hover]
    · refine ⟨t, _, ht, exec_cucEnc_completes hfits hcap, hv.symm, ?_⟩
      have hroom : (timeBytes s.regs).length ≤ s.params.datCap := hcap
      simp [errorCode_complete, hr, hroom]
  · obtain ⟨e, he, hcode⟩ := exists_timeRaise hm
    rw [if_neg hm] at hr
    refine ⟨t, _, ht, exec_cucEnc_refuses he, hv.symm, ?_⟩
    have hno0 : e.code ≠ 0 := by omega
    have hno8 : e.code ≠ 8 := by omega
    simp [errorCode_raise, hr, hno0, hno8, hcode]

end Sys2Proof.Machine
end

section
/-! PROOFS. CUC.DEC, and the round trip from CUC.ENC (41_cuc.md R128, R138, R146). -/

namespace Sys2Proof.Machine

variable {s t : State} {f : TimeField} {b : Bytes}

/-! ### What a decoded time field leaves in the registers (41_cuc.md R138) -/

/-- The value of a field of `n` octets fits a register of `w` bits (41_cuc.md R128). -/
theorem toNat_ofNat_beVal_take (b : Bytes) {n w : Nat} (hn : 8 * n ≤ w) :
    (BitVec.ofNat w (beVal (b.take n))).toNat = beVal (b.take n) := by
  rw [BitVec.toNat_ofNat]
  refine Nat.mod_eq_of_lt ?_
  calc beVal (b.take n) < 256 ^ (b.take n).length := beVal_lt _
    _ ≤ 256 ^ n := Nat.pow_le_pow_right (by decide) (List.length_take_le n b)
    _ = 2 ^ (8 * n) := (pow_mul 2 8 n).symm
    _ ≤ 2 ^ w := Nat.pow_le_pow_right (by decide) hn

@[simp] theorem putTime_cucSec (r : Regs) (f : TimeField) :
    (r.putTime f).cucSec = BitVec.ofNat 64 f.sec := by
  unfold Regs.putTime; split <;> rfl

@[simp] theorem putTime_cucFrc (r : Regs) (f : TimeField) :
    (r.putTime f).cucFrc = BitVec.ofNat 80 f.frc := by
  unfold Regs.putTime; split <;> rfl

@[simp] theorem putTime_cucUsed (r : Regs) (f : TimeField) :
    (r.putTime f).cucUsed = BitVec.ofNat 8 f.used := by
  unfold Regs.putTime; split <;> rfl

theorem putTime_cucTcid_of_some (r : Regs) {c : BitVec 3} (h : f.tcid = some c) :
    (r.putTime f).cucTcid = c.setWidth 32 := by
  rw [Regs.putTime, h]

theorem putTime_cucTcid_of_none (r : Regs) (h : f.tcid = none) :
    (r.putTime f).cucTcid = r.cucTcid := by
  rw [Regs.putTime, h]

/-- Without a P-field the field has the width the register holds already. -/
theorem toNat_putTime_cucBasic {r : Regs} (h : f.tcid = none → f.basic = r.cucBasic.toNat)
    (hlt : f.basic < 256) : (r.putTime f).cucBasic.toNat = f.basic := by
  unfold Regs.putTime
  split
  · exact Nat.mod_eq_of_lt hlt
  · next hnone => exact (h hnone).symm

theorem toNat_putTime_cucFrac {r : Regs} (h : f.tcid = none → f.frac = r.cucFrac.toNat)
    (hlt : f.frac < 256) : (r.putTime f).cucFrac.toNat = f.frac := by
  unfold Regs.putTime
  split
  · exact Nat.mod_eq_of_lt hlt
  · next hnone => exact (h hnone).symm

theorem timeBasic_of_no_preamble {r : Regs} (h : ¬r.cucHasp = 1) (b : Bytes) :
    timeBasic r b = r.cucBasic.toNat := if_neg h

theorem timeFrac_of_no_preamble {r : Regs} (h : ¬r.cucHasp = 1) (b : Bytes) :
    timeFrac r b = r.cucFrac.toNat := if_neg h

/-- Registers that hold what `putTime` leaves hold the time of the field. -/
theorem timeParsed_of_putTime
    (hf : cucDec b s.regs.hasP s.regs.cucBasic.toNat s.regs.cucFrac.toNat = .ok f)
    (hregs : Agree [.cucBasic, .cucFrac, .cucTcid, .cucSec, .cucFrc, .cucUsed]
      { s with regs := s.regs.putTime f } t) : TimeParsed b s t := by
  rcases cucDec_cases s.regs b with
    ⟨g, hg, -, hbasic, hfrac, hused, -, hmax, hfmax, -, hlen, hsec, hfrc, hsome, hnone⟩ | ⟨e, he, -⟩
  case inr => cases he.symm.trans hf
  cases hg.symm.trans hf
  have hbare : f.tcid = none → ¬s.regs.cucHasp = 1 := fun h hp => by
    obtain ⟨c, hc, -⟩ := hsome hp
    cases h.symm.trans hc
  have hregBasic : t.regs.cucBasic = (s.regs.putTime f).cucBasic := hregs .cucBasic (by decide)
  have hregFrac : t.regs.cucFrac = (s.regs.putTime f).cucFrac := hregs .cucFrac (by decide)
  have hregTcid : t.regs.cucTcid = (s.regs.putTime f).cucTcid := hregs .cucTcid (by decide)
  have hregSec : t.regs.cucSec = (s.regs.putTime f).cucSec := hregs .cucSec (by decide)
  have hregFrc : t.regs.cucFrc = (s.regs.putTime f).cucFrc := hregs .cucFrc (by decide)
  have hregUsed : t.regs.cucUsed = (s.regs.putTime f).cucUsed := hregs .cucUsed (by decide)
  refine ⟨?sec, ?frc, ?used, ?basic, ?frac, fun hp => ?tcid, fun hp => ?noTcid⟩
  case sec => rw [hregSec, putTime_cucSec, hsec, toNat_ofNat_beVal_take _ (by omega)]
  case frc => rw [hregFrc, putTime_cucFrc, hfrc, toNat_ofNat_beVal_take _ (by omega)]
  case used =>
    rw [hregUsed, putTime_cucUsed, ← hused]
    exact Nat.mod_eq_of_lt (by omega)
  case basic =>
    rw [hregBasic, toNat_putTime_cucBasic (fun h => ?_) (by omega), hbasic]
    rw [hbasic, timeBasic_of_no_preamble (hbare h)]
  case frac =>
    rw [hregFrac, toNat_putTime_cucFrac (fun h => ?_) (by omega), hfrac]
    rw [hfrac, timeFrac_of_no_preamble (hbare h)]
  case tcid =>
    obtain ⟨c, hc, hwire⟩ := hsome hp
    rw [hregTcid, putTime_cucTcid_of_some s.regs hc, ← hwire]
    exact BitVec.toNat_setWidth_of_le (by decide)
  case noTcid => rw [hregTcid, putTime_cucTcid_of_none s.regs (hnone hp)]

/-! ### CUC.DEC (41_cuc.md R138) -/

/-- What CUC.DEC commits of a time field. -/
def State.takeTime (s : State) (f : TimeField) : State :=
  { s with regs := { s.regs.putTime f with vfail := 0 } }

theorem keeps_takeTime (s : State) (f : TimeField) :
    Keeps [.vfail, .cucBasic, .cucFrac, .cucTcid, .cucSec, .cucFrc, .cucUsed] [] s (s.takeTime f) :=
  (Keeps.refl _ _ s).extend (keeps_putTime s f) (by decide) (by decide)
    |>.extend (keeps_withVfail _ 0) (by decide) (by decide)

theorem exec_cucDec_beyond (h : s.capacity .dat < s.lengthOf .dat) :
    exec .cucDec s = .next (s.raise 0x2400 (.capacity .dat)) := by
  show execCucDec s = _
  rw [execCucDec, if_pos h]
  rfl

theorem exec_cucDec_refuses {e : Err} (h : s.lengthOf .dat ≤ s.capacity .dat)
    (he : cucDec (s.valid .dat) s.regs.hasP s.regs.cucBasic.toNat s.regs.cucFrac.toNat = .error e) :
    exec .cucDec s = .next (s.raise 0x2400 e) := by
  show execCucDec s = _
  rw [execCucDec, if_neg (Nat.not_lt.2 h), he]
  rfl

theorem exec_cucDec_completes (h : s.lengthOf .dat ≤ s.capacity .dat)
    (hf : cucDec (s.valid .dat) s.regs.hasP s.regs.cucBasic.toNat s.regs.cucFrac.toNat = .ok f) :
    exec .cucDec s = .next ((s.takeTime f).complete 0x2400) := by
  show execCucDec s = _
  rw [execCucDec, if_neg (Nat.not_lt.2 h), hf]
  rfl

/-- Settles O33, by the capacity check and what `cuc_dec` can do (`cucDec_cases`). -/
theorem cucDecResult : Obligations.CucDecResult := by
  intro s
  refine ⟨fun hcap hnone => ?completes, fun hcap => ?beyond, fun code info hcap hsome => ?refuses⟩
  case completes =>
    rcases cucDec_cases s.regs (s.valid .dat) with ⟨f, hf, -⟩ | ⟨e, -, he⟩
    · refine ⟨_, exec_cucDec_completes hcap hf, timeParsed_of_putTime hf fun r hr => ?_, rfl,
        completed_complete _ _, (keeps_takeTime s f).complete _⟩
      cases r <;> first | rfl | simp at hr
    · cases hnone.symm.trans he
  case beyond => exact ⟨_, exec_cucDec_beyond hcap, raisesPlainly_capacity _ .dat s⟩
  case refuses =>
    rcases cucDec_cases s.regs (s.valid .dat) with ⟨f, -, hf, -⟩ | ⟨e, he, herr⟩
    · cases hf.symm.trans hsome
    · cases herr.symm.trans hsome
      exact ⟨_, exec_cucDec_refuses hcap he, raisesPlainly_raise _ e s⟩

/-! ### The time field of an encoded time (41_cuc.md R146 (a)) -/

/-- Two register sets decode with the same CUC_HASP and, without a P-field, the same widths (41_cuc.md
R146 (a)). -/
def SameFraming (r r' : Regs) : Prop :=
  r'.cucHasp = r.cucHasp ∧ (r.cucHasp = 0 → r'.cucBasic = r.cucBasic ∧ r'.cucFrac = r.cucFrac)

variable {r r' : Regs}

theorem not_supplied_of_format {r : Regs} (h : FormatFits r) :
    ¬(r.cucBasic = 0xFF ∨ r.cucFrac = 0xFF) := by
  obtain ⟨-, hmax, hfrac⟩ := h
  rintro (h | h)
  · rw [h] at hmax
    exact absurd hmax (by decide)
  · rw [h] at hfrac
    exact absurd hfrac (by decide)

theorem hasp_ne_zero {r : Regs} (h : r.cucHasp = 1) : ¬r.cucHasp = 0 := by
  rw [h]
  decide

theorem timeError_eq_none (hpre : r.cucHasp = 1 → pfieldError b = none)
    (hfmt : r.cucHasp = 0 → FormatFits r) (hlen : timeUsed r b ≤ b.length) : timeError r b = none := by
  have hstages : ¬b.length < timeOffset r b + timeBasic r b ∧ ¬b.length < timeUsed r b := by
    unfold timeUsed at *
    omega
  rw [timeError, if_neg fun h => by rw [hpre h.1] at h; exact absurd h.2 (by decide),
    if_neg fun h => not_supplied_of_format (hfmt h.1) h.2, if_neg fun h => h.2 (hfmt h.1),
    if_neg hstages.1, if_neg hstages.2]

/-- The decoder finds in an encoded time the format that was encoded, whatever follows the field. -/
theorem framing_timeBytes (h : TimeFits r.hasP r) (hs : SameFraming r r') {rest : Bytes}
    (hb : b = timeBytes r ++ rest) :
    timeOffset r' b = (preambleBytes r).length ∧ timeBasic r' b = r.cucBasic.toNat
      ∧ timeFrac r' b = r.cucFrac.toNat ∧ (r.cucHasp = 1 → wireTcid b = r.cucTcid.toNat)
      ∧ (r.cucHasp = 1 → pfieldError b = none) := by
  obtain ⟨⟨hmin, hmax, hfrac⟩, htcid, -⟩ := h
  obtain ⟨hhasp, hwidths⟩ := hs
  rcases hasp_cases r with hp | hp
  · have hpre : preambleBytes r = pfieldBytes r.cucBasic.toNat r.cucFrac.toNat r.cucTcid.toNat := if_pos hp
    have hlen : 2 ≤ b.length := by
      rw [hb, List.length_append, length_timeBytes, hpre, length_pfieldBytes]
      split <;> omega
    rw [timeBytes_eq, hpre, List.append_assoc, List.append_assoc] at hb
    obtain ⟨hoctets, hbasic, hfracs, htcids, herror⟩ :=
      wire_pfieldBytes hmin hmax hfrac (htcid (by rw [hasP_eq, decide_eq_true hp])) hb
    rw [timeOffset, timeBasic, timeFrac, hhasp, if_pos hp, if_pos hp, if_pos hp, hpre]
    exact ⟨hoctets, hbasic, hfracs, fun _ => htcids, fun _ => herror hlen⟩
  · have hbare : ¬r.cucHasp = 1 := fun h => hasp_ne_zero h hp
    obtain ⟨hbasic, hfracs⟩ := hwidths hp
    rw [timeOffset, timeBasic, timeFrac, hhasp, if_neg hbare, if_neg hbare, if_neg hbare, preambleBytes,
      if_neg hbare, hbasic, hfracs]
    exact ⟨rfl, rfl, rfl, fun h => absurd h hbare, fun h => absurd h hbare⟩

theorem timeUsed_timeBytes (h : TimeFits r.hasP r) (hs : SameFraming r r') {rest : Bytes}
    (hb : b = timeBytes r ++ rest) : timeUsed r' b = (timeBytes r).length := by
  obtain ⟨hoff, hbasic, hfrac, -⟩ := framing_timeBytes h hs hb
  rw [timeUsed, hoff, hbasic, hfrac, length_timeBytes]

/-- An encoded time can be decoded (41_cuc.md R146 (a)). -/
theorem timeError_timeBytes (h : TimeFits r.hasP r) (hs : SameFraming r r') {rest : Bytes}
    (hb : b = timeBytes r ++ rest) : timeError r' b = none := by
  obtain ⟨-, -, -, -, herror⟩ := framing_timeBytes h hs hb
  have hused := timeUsed_timeBytes h hs hb
  obtain ⟨hfmt, -⟩ := h
  obtain ⟨hhasp, hwidths⟩ := hs
  refine timeError_eq_none (fun hp => herror (hhasp ▸ hp)) (fun hp => ?_) ?_
  · obtain ⟨hbasic, hfrac⟩ := hwidths (hhasp ▸ hp)
    rwa [FormatFits, hbasic, hfrac]
  · rw [hused, hb, List.length_append]
    omega

theorem beVal_be_of_lt {n v : Nat} (h : v < 2 ^ (8 * n)) : beVal (be n v) = v := by
  rw [beVal_be]
  exact Nat.mod_eq_of_lt (h.trans_eq (pow_mul 2 8 n))

/-- The seconds and the fraction stand behind the P-field (41_cuc.md R126). -/
theorem value_timeBytes (h : TimeFits r.hasP r) (rest : Bytes) :
    beVal (((timeBytes r ++ rest).drop (preambleBytes r).length).take r.cucBasic.toNat) = r.cucSec.toNat
      ∧ beVal (((timeBytes r ++ rest).drop ((preambleBytes r).length + r.cucBasic.toNat)).take
          r.cucFrac.toNat) = r.cucFrc.toNat := by
  obtain ⟨-, -, hsec, hfrc⟩ := h
  rw [timeBytes_eq, ← List.drop_drop, List.append_assoc, List.append_assoc, List.drop_left,
    List.take_left' (length_be _ _), List.drop_left' (length_be _ _), List.take_left' (length_be _ _)]
  exact ⟨beVal_be_of_lt hsec, beVal_be_of_lt hfrc⟩

/-- A state that has read an encoded time holds it: the registers of the time, and the time field's
length (41_cuc.md R146 (a)). -/
theorem agree_of_timeParsed (h : TimeFits s.regs.hasP s.regs) {u : State}
    (hs : SameFraming s.regs u.regs) {rest : Bytes} (hb : b = timeBytes s.regs ++ rest)
    (ht : TimeParsed b u t) :
    Agree [.cucSec, .cucFrc] s t
      ∧ (s.regs.cucHasp = 1 → Agree [.cucBasic, .cucFrac, .cucTcid] s t)
      ∧ t.regs.cucUsed.toNat = (timeBytes s.regs).length := by
  obtain ⟨hoff, hbasic, hfrac, htcid, -⟩ := framing_timeBytes h hs hb
  have hused := timeUsed_timeBytes h hs hb
  obtain ⟨hsec, hfrc⟩ := value_timeBytes h rest
  obtain ⟨htsec, htfrc, htused, htbasic, htfrac, httcid, -⟩ := ht
  rw [hoff, hbasic, hb, hsec] at htsec
  rw [hoff, hbasic, hfrac, hb, hfrc] at htfrc
  refine ⟨fun q hq => ?_, fun hp q hq => ?_, htused.trans hused⟩
  · simp only [List.mem_cons, List.not_mem_nil, or_false] at hq
    rcases hq with rfl | rfl
    · exact BitVec.eq_of_toNat_eq htsec
    · exact BitVec.eq_of_toNat_eq htfrc
  · simp only [List.mem_cons, List.not_mem_nil, or_false] at hq
    rcases hq with rfl | rfl | rfl
    · exact BitVec.eq_of_toNat_eq (htbasic.trans hbasic)
    · exact BitVec.eq_of_toNat_eq (htfrac.trans hfrac)
    · exact BitVec.eq_of_toNat_eq ((httcid (hs.1.trans hp)).trans (htcid hp))

/-- Settles O36: CUC.ENC that completes left the time field in DAT (`cucEncResult`), CUC.DEC finds no error
in it (`timeError_timeBytes`) and reads it (`cucDecResult`), which gives the time back. -/
theorem cucRoundTrip : Obligations.CucRoundTrip := by
  intro s t u henc hcode hparams hvalid hlen hhasp hwidths
  have hs : SameFraming s.regs u.regs := ⟨hhasp, fun hp =>
    ⟨hwidths hp .cucBasic (by decide), hwidths hp .cucFrac (by decide)⟩⟩
  obtain ⟨hfits, hcap⟩ := fits_of_exec_cucEnc henc hcode
  obtain ⟨hencodes, -⟩ := cucEncResult s
  obtain ⟨t', ht', ⟨hdata, hdataLen, -⟩, -, -, -, -, -, htparams, -⟩ := hencodes (hasP_eq _ ▸ hfits) hcap
  cases ht'.symm.trans henc
  have hb : u.valid .dat = timeBytes s.regs ++ [] := by rw [hvalid, hdata, List.append_nil]
  obtain ⟨hdecodes, -⟩ := cucDecResult u
  obtain ⟨v, hv, hparsed, -, hcompleted, -⟩ := hdecodes
    (by rw [hlen, hdataLen, hparams, htparams]; exact hcap) (timeError_timeBytes hfits hs hb)
  obtain ⟨hvalue, hformat, hused⟩ := agree_of_timeParsed hfits hs hb hparsed
  exact ⟨v, hv, errorCode_of_completed hcompleted, hvalue, hformat, hused.trans hdataLen.symm⟩

end Sys2Proof.Machine
end

section
/-! PROOFS. CUC.TOFIX (41_cuc.md R144). -/

namespace Sys2Proof.Machine

variable {s t : State} {m : Mask} {e : Err}

/-- What CUC.TOFIX commits of a value `v` with `n` fraction bits. -/
def State.putFix (s : State) (v n : Nat) : State :=
  { s with regs := { s.regs with fix := BitVec.ofNat 136 v, fixFbits := BitVec.ofNat 8 n } }

/-- The time of the value registers in units of the last fraction bit (41_cuc.md R144). -/
def fixValue (r : Regs) : Nat := r.cucSec.toNat * 2 ^ (8 * r.cucFrac.toNat) + r.cucFrc.toNat

theorem exec_cucTofix_refuses (he : timeRaise (timeChecks false s.regs) = some e) :
    exec .cucTofix s = .next ((s.withVfail (timeChecks false s.regs)).raise 0x2600 e) := by
  show execCucTofix s = _
  simp only [execCucTofix, he, finish_error]
  rfl

theorem exec_cucTofix_completes (h : TimeFits false s.regs) :
    exec .cucTofix s =
      .next (((s.withVfail 0).putFix (fixValue s.regs) (8 * s.regs.cucFrac.toNat)).complete 0x2600) := by
  show execCucTofix s = _
  simp only [execCucTofix, timeChecks_eq_zero_iff.2 h, timeRaise_zero, finish_ok]
  rfl

/-- Seconds and fraction take at most 56 and 80 bits (41_cuc.md R144). -/
theorem fixValue_lt {r : Regs} (h : TimeFits false r) : fixValue r < 2 ^ 136 := by
  obtain ⟨⟨-, hmax, hfrac⟩, -, hsec, hfrc⟩ := h
  calc fixValue r
      < (r.cucSec.toNat + 1) * 2 ^ (8 * r.cucFrac.toNat) := by
        rw [fixValue, Nat.succ_mul r.cucSec.toNat]
        exact Nat.add_lt_add_left hfrc _
    _ ≤ 2 ^ (8 * r.cucBasic.toNat) * 2 ^ (8 * r.cucFrac.toNat) := Nat.mul_le_mul_right _ hsec
    _ = 2 ^ (8 * r.cucBasic.toNat + 8 * r.cucFrac.toNat) := (pow_add _ _ _).symm
    _ ≤ 2 ^ 136 := Nat.pow_le_pow_right (by decide) (by omega)

/-- With a legal format and no P-field to produce only the two values can fail (41_cuc.md R125). -/
theorem timeChecks_shows_values (hfmt : FormatFits s.regs) :
    ShowsChecks (timeChecks false s.regs) [20, 21] s 0 false := by
  intro k
  rw [timeChecks_shows s 0 false k]
  refine ⟨fun ⟨hk, hfails⟩ => ⟨?_, hfails⟩, fun ⟨hk, hfails⟩ =>
    ⟨List.mem_cons_of_mem _ (List.mem_cons_of_mem _ hk), hfails⟩⟩
  simp only [cucCheckList, List.mem_cons, List.not_mem_nil, or_false] at hk ⊢
  rcases hk with rfl | rfl | hk
  · exact absurd hfmt hfails
  · exact absurd hfails.1 Bool.false_ne_true
  · exact hk

/-- Settles O35, by the checks CUC.TOFIX makes; the value needs no more than 136 bits (`fixValue_lt`). -/
theorem cucTofixResult : Obligations.CucTofixResult := by
  intro s
  refine ⟨fun h => ?completes, fun hfmt => ?format, fun hfmt h => ?range⟩
  case completes =>
    have hbits : 8 * s.regs.cucFrac.toNat < 2 ^ 8 := by
      obtain ⟨⟨-, -, hfrac⟩, -⟩ := h
      omega
    exact ⟨_, exec_cucTofix_completes h, Nat.mod_eq_of_lt (fixValue_lt h), Nat.mod_eq_of_lt hbits, rfl,
      completed_complete _ _, (keeps_regs s [.vfail, .fix, .fixFbits]).complete _⟩
  case format =>
    have hmask := timeChecks_of_not_format hfmt
    have hexec := exec_cucTofix_refuses (timeRaise_timeChecks_of_format false hfmt)
    rw [hmask] at hexec
    exact ⟨_, hexec, raisesWithMask_timefmt _ _ s⟩
  case range =>
    exact ⟨_, _, exec_cucTofix_refuses (timeRaise_timeChecks_of_range hfmt h), timeChecks_shows_values hfmt,
      raisesWithMask_range _ _ s⟩

end Sys2Proof.Machine
end

section
/-! PROOFS. CUC.FROMDT (41_cuc.md R140, R142), and what CUC.TOFIX makes of its time (R146 (b)). -/

namespace Sys2Proof.Machine

variable {s t : State} {m : Mask} {e : Err}

/-! ### The mask (41_cuc.md R142) -/

/-- A sub-second operand is not below DT_DEN (41_cuc.md R142). -/
abbrev SubTooBig (s : State) : Prop :=
  s.params.dtDen ≤ s.regs.dtSub.toNat ∨ s.params.dtDen ≤ s.regs.epSub.toNat

theorem fromdtMask_eq (s : State) :
    fromdtMask s = flagBit 18 (!s.regs.fmtOk)
      ||| flagBit 23
        (decide (s.params.dtDen ≤ s.regs.dtSub.toNat ∨ s.params.dtDen ≤ s.regs.epSub.toNat)) := by
  rw [fromdtMask, timeChecks, flags_and_fromdt, Bool.decide_or]

theorem fromdtMask_of_fits (hfmt : FormatFits s.regs) (hsub : ¬SubTooBig s) : fromdtMask s = 0 := by
  rw [fromdtMask_eq, fmtOk_of_fits hfmt, decide_eq_false hsub]
  rfl

theorem fromdtMask_of_sub (hfmt : FormatFits s.regs) (hsub : SubTooBig s) :
    fromdtMask s = 0x00800000 := by
  rw [fromdtMask_eq, fmtOk_of_fits hfmt, decide_eq_true hsub]
  rfl

theorem fromdtMask_of_not_format (hfmt : ¬FormatFits s.regs) :
    fromdtMask s =
      if s.params.dtDen ≤ s.regs.dtSub.toNat ∨ s.params.dtDen ≤ s.regs.epSub.toNat then 0x00840000
      else 0x00040000 := by
  rw [fromdtMask_eq, fmtOk_of_not_fits hfmt]
  split
  · next hsub => rw [decide_eq_true hsub]; rfl
  · next hsub => rw [decide_eq_false hsub]; rfl

theorem fits_of_fromdtMask (h : fromdtMask s = 0) : FormatFits s.regs ∧ ¬SubTooBig s := by
  by_cases hfmt : FormatFits s.regs
  · refine ⟨hfmt, fun hsub => ?_⟩
    rw [fromdtMask_of_sub hfmt hsub] at h
    exact absurd h (by decide)
  · rw [fromdtMask_of_not_format hfmt] at h
    split at h <;> exact absurd h (by decide)

/-! ### How CUC.FROMDT ends (41_cuc.md R142) -/

/-- The time to convert, in sub-second units. -/
def dtUnits (s : State) : Nat := subUnits s.params s.regs.dtSec.toNat s.regs.dtSub.toNat

/-- The epoch, in sub-second units. -/
def epUnits (s : State) : Nat := subUnits s.params s.regs.epSec.toNat s.regs.epSub.toNat

/-- The seconds and the fraction of the elapsed time in the format of the registers. -/
def encodedSec (s : State) : Nat := fromdtSec s.regs.cucFrac.toNat (elapsed s) s.params.dtDen

def encodedFrc (s : State) : Nat := fromdtFrc s.regs.cucFrac.toNat (elapsed s) s.params.dtDen

/-- What CUC.FROMDT commits. -/
def State.putElapsed (s : State) : State :=
  { s with
    regs :=
      { s.regs with
        cucSec := BitVec.ofNat 64 (encodedSec s)
        cucFrc := BitVec.ofNat 80 (encodedFrc s)
        elSec := BitVec.ofNat 64 (elapsed s / s.params.dtDen)
        elSub := BitVec.ofNat 32 (elapsed s % s.params.dtDen) } }

theorem exec_cucFromdt_refuses (hm : fromdtMask s = m) (he : timeRaise m = some e) :
    exec .cucFromdt s = .next ((s.withVfail m).raise 0x2500 e) := by
  show execCucFromdt s = _
  simp only [execCucFromdt, hm, he, finish_error]
  rfl

theorem exec_cucFromdt_epoch (hm : fromdtMask s = 0) (h : dtUnits s < epUnits s) :
    exec .cucFromdt s = .next ((s.withVfail 0).raise 0x2500 .epoch) := by
  show execCucFromdt s = _
  rw [dtUnits, epUnits] at h
  simp only [execCucFromdt, hm, timeRaise_zero, if_pos h, finish_error]
  rfl

theorem exec_cucFromdt_tooLate (hm : fromdtMask s = 0) (hep : epUnits s ≤ dtUnits s)
    (h : 2 ^ (8 * s.regs.cucBasic.toNat) ≤ encodedSec s) :
    exec .cucFromdt s =
      .next ((s.withVfail 0x00100000).raise 0x2500 (.range 0x00100000)) := by
  have hover : 2 ^ (8 * s.regs.cucBasic.toNat) - 1 < encodedSec s :=
    (Nat.sub_lt (Nat.two_pow_pos _) Nat.one_pos).trans_le h
  show execCucFromdt s = _
  rw [dtUnits, epUnits] at hep
  rw [encodedSec] at hover
  simp only [execCucFromdt, hm, timeRaise_zero, if_neg (Nat.not_lt.2 hep), if_pos hover, finish_error]
  rfl

theorem exec_cucFromdt_completes (hm : fromdtMask s = 0) (hep : epUnits s ≤ dtUnits s)
    (h : encodedSec s < 2 ^ (8 * s.regs.cucBasic.toNat)) :
    exec .cucFromdt s = .next ((s.putElapsed.withVfail 0).complete 0x2500) := by
  have hfits : ¬2 ^ (8 * s.regs.cucBasic.toNat) - 1 < encodedSec s := Nat.not_lt.2 (Nat.le_sub_one_of_lt h)
  show execCucFromdt s = _
  rw [dtUnits, epUnits] at hep
  rw [encodedSec] at hfits
  simp only [execCucFromdt, hm, timeRaise_zero, if_neg (Nat.not_lt.2 hep), if_neg hfits, finish_ok]
  rfl

/-- CUC.FROMDT completes only after every check and test of R142. -/
theorem fits_of_exec_cucFromdt (h : exec .cucFromdt s = .next t) (hcode : errorCode t = 0) :
    fromdtMask s = 0 ∧ epUnits s ≤ dtUnits s ∧ encodedSec s < 2 ^ (8 * s.regs.cucBasic.toNat) := by
  have hraise {e : Err} {u : State} (hu : exec .cucFromdt s = .next (u.raise 0x2500 e)) : False := by
    cases hu.symm.trans h
    rw [errorCode_raise] at hcode
    have := e.code_pos
    omega
  by_cases hm : fromdtMask s = 0
  · rcases Nat.lt_or_ge (dtUnits s) (epUnits s) with hep | hep
    · exact (hraise (exec_cucFromdt_epoch hm hep)).elim
    rcases Nat.lt_or_ge (encodedSec s) (2 ^ (8 * s.regs.cucBasic.toNat)) with hsec | hsec
    · exact ⟨hm, hep, hsec⟩
    · exact (hraise (exec_cucFromdt_tooLate hm hep hsec)).elim
  · obtain ⟨e, he, -⟩ := exists_timeRaise hm
    exact (hraise (exec_cucFromdt_refuses rfl he)).elim

/-! ### The encoded value fits its registers (41_cuc.md R142) -/

theorem dtDen_pos (hsub : ¬SubTooBig s) : 1 ≤ s.params.dtDen := by
  rw [SubTooBig] at hsub
  omega

/-- A part of a whole scaled to `k` units rounds to at most `k`. -/
theorem rhe_mul_le {n d : Nat} (k : Nat) (hd : 1 ≤ d) (hn : n ≤ d) : rhe (n * k) d ≤ k := by
  obtain ⟨hupper, -⟩ := roundsHalfToEven (n * k) d hd
  have hpart : n * k ≤ d * k := Nat.mul_le_mul_right k hn
  by_contra hlt
  have hnext : (k + 1) * d ≤ rhe (n * k) d * d := Nat.mul_le_mul_right d (Nat.lt_of_not_le hlt)
  rw [Nat.succ_mul, Nat.mul_comm k] at hnext
  omega

theorem encodedFrc_lt (hsub : ¬SubTooBig s) : encodedFrc s < 2 ^ (8 * s.regs.cucFrac.toNat) := by
  have hd := dtDen_pos hsub
  have hpow := Nat.two_pow_pos (8 * s.regs.cucFrac.toNat)
  rw [encodedFrc, fromdtFrc]
  split
  · have hle := rhe_mul_le (2 ^ (8 * s.regs.cucFrac.toNat) - 1) hd (Nat.mod_lt (elapsed s) hd).le
    exact Nat.lt_of_le_pred hpow hle
  · exact hpow

theorem toNat_cucSec_putElapsed (hfmt : FormatFits s.regs)
    (hsec : encodedSec s < 2 ^ (8 * s.regs.cucBasic.toNat)) :
    s.putElapsed.regs.cucSec.toNat = encodedSec s := by
  obtain ⟨-, hmax, -⟩ := hfmt
  exact Nat.mod_eq_of_lt (hsec.trans_le (Nat.pow_le_pow_right (by decide) (by omega)))

theorem toNat_cucFrc_putElapsed (hfmt : FormatFits s.regs) (hsub : ¬SubTooBig s) :
    s.putElapsed.regs.cucFrc.toNat = encodedFrc s := by
  obtain ⟨-, -, hfrac⟩ := hfmt
  exact Nat.mod_eq_of_lt ((encodedFrc_lt hsub).trans_le (Nat.pow_le_pow_right (by decide) (by omega)))

/-- The elapsed time is at most the time itself, whose seconds are a register's. -/
theorem toNat_elSec_putElapsed (hsub : ¬SubTooBig s) :
    s.putElapsed.regs.elSec.toNat = elapsed s / s.params.dtDen := by
  refine Nat.mod_eq_of_lt (Nat.div_lt_of_lt_mul ?_)
  rw [SubTooBig] at hsub
  calc elapsed s ≤ s.regs.dtSec.toNat * s.params.dtDen + s.regs.dtSub.toNat := Nat.sub_le _ _
    _ < (s.regs.dtSec.toNat + 1) * s.params.dtDen := by rw [Nat.succ_mul]; omega
    _ ≤ 2 ^ 64 * s.params.dtDen := Nat.mul_le_mul_right _ s.regs.dtSec.isLt
    _ = s.params.dtDen * 2 ^ 64 := Nat.mul_comm _ _

/-- DT_DEN is at most 2^32 (log entry 2). -/
theorem toNat_elSub_putElapsed (hok : s.params.ok = true) :
    s.putElapsed.regs.elSub.toNat = elapsed s % s.params.dtDen := by
  simp only [Params.ok, Bool.and_eq_true, decide_eq_true_eq] at hok
  exact Nat.mod_eq_of_lt ((Nat.mod_lt _ (by omega)).trans_le (by omega))

/-- Settles O34, by the checks and tests of CUC.FROMDT in their order. -/
theorem cucFromdtResult : Obligations.CucFromdtResult := by
  rintro s hok _ _ _ _ _ _ rfl rfl rfl rfl rfl rfl
  have hno (hdt : s.regs.dtSub.toNat < s.params.dtDen) (hep : s.regs.epSub.toNat < s.params.dtDen) :
      ¬SubTooBig s := by
    rw [SubTooBig]
    omega
  refine ⟨fun hfmt => ?format, fun hfmt hsub => ?sub, fun hfmt hdt hep hlt => ?epoch,
    fun hfmt hdt hep hle hsec => ?tooLate, fun hfmt hdt hep hle hsec => ?completes⟩
  case format =>
    refine ⟨_, exec_cucFromdt_refuses (fromdtMask_of_not_format hfmt) (timeRaise_of_format ?_),
      raisesWithMask_timefmt _ _ s⟩
    split <;> rfl
  case sub =>
    exact ⟨_, exec_cucFromdt_refuses (fromdtMask_of_sub hfmt hsub) rfl, raisesWithMask_range _ _ s⟩
  case epoch =>
    exact ⟨_, exec_cucFromdt_epoch (fromdtMask_of_fits hfmt (hno hdt hep)) hlt,
      raisesWithMask_raise _ .epoch 0 s⟩
  case tooLate =>
    exact ⟨_, exec_cucFromdt_tooLate (fromdtMask_of_fits hfmt (hno hdt hep)) hle hsec,
      raisesWithMask_range _ _ s⟩
  case completes =>
    have hsub := hno hdt hep
    exact ⟨_, exec_cucFromdt_completes (fromdtMask_of_fits hfmt hsub) hle hsec,
      toNat_cucSec_putElapsed hfmt hsec, toNat_cucFrc_putElapsed hfmt hsub, toNat_elSec_putElapsed hsub,
      toNat_elSub_putElapsed hok, rfl, completed_complete _ _,
      (keeps_regs s [.vfail, .cucSec, .cucFrc, .elSec, .elSub]).complete _⟩

/-! ### CUC.FROMDT, then CUC.TOFIX (41_cuc.md R146 (b)) -/

/-- Scaling the remainder by one unit less than a second and rounding leaves the value above the time by at
most half a unit and below it by less than one and a half. -/
theorem scaled_value_bound {x d l v : Nat} (hd : 1 ≤ d) (hl : 1 ≤ l)
    (hv : v = x / d * l + rhe (x % d * (l - 1)) d) :
    -(3 * (d : Int)) < 2 * ((v : Int) * d - x * l) ∧ 2 * ((v : Int) * d - x * l) ≤ d := by
  obtain ⟨k, rfl⟩ : ∃ k, l = k + 1 := ⟨l - 1, by omega⟩
  rw [Nat.add_sub_cancel] at hv
  obtain ⟨hupper, hlower, -⟩ := roundsHalfToEven (x % d * k) d hd
  have hmod : x % d < d := Nat.mod_lt x hd
  have hx : x = x / d * d + x % d := (Nat.div_add_mod' x d).symm
  generalize rhe (x % d * k) d = r at *
  generalize x % d = n at *
  generalize x / d = w at *
  subst hx hv
  have hdiff : (((w * (k + 1) + r : Nat) : Int) * d - ((w * d + n : Nat) : Int) * ((k + 1 : Nat) : Int)) =
      (r * d : Nat) - (n * k : Nat) - n := by
    push_cast
    ring
  rw [hdiff]
  omega

/-- Rounding the whole time leaves it within half a second. -/
theorem rounded_value_bound {x d v : Nat} (hd : 1 ≤ d) (hv : v = rhe x d) :
    -(d : Int) ≤ 2 * ((v : Int) * d - x) ∧ 2 * ((v : Int) * d - x) ≤ d := by
  obtain ⟨hupper, hlower, -⟩ := roundsHalfToEven x d hd
  rw [← hv] at hupper hlower
  rw [← Nat.cast_mul]
  omega

theorem cast_elapsed (hep : epUnits s ≤ dtUnits s) :
    (elapsed s : Int) = (s.regs.dtSec.toNat * s.params.dtDen + s.regs.dtSub.toNat : Int)
      - (s.regs.epSec.toNat * s.params.dtDen + s.regs.epSub.toNat) := by
  have hcast : (elapsed s : Int) = (dtUnits s : Int) - epUnits s := Nat.cast_sub hep
  rw [hcast, dtUnits, epUnits, subUnits, subUnits]
  push_cast
  rfl

theorem timeFits_putElapsed (hfmt : FormatFits s.regs) (hsub : ¬SubTooBig s)
    (hsec : encodedSec s < 2 ^ (8 * s.regs.cucBasic.toNat)) : TimeFits false s.putElapsed.regs := by
  refine ⟨hfmt, fun h => absurd h Bool.false_ne_true, ?_, ?_⟩
  · rw [toNat_cucSec_putElapsed hfmt hsec]
    exact hsec
  · rw [toNat_cucFrc_putElapsed hfmt hsub]
    exact encodedFrc_lt hsub

theorem fixValue_putElapsed (hfmt : FormatFits s.regs) (hsub : ¬SubTooBig s)
    (hsec : encodedSec s < 2 ^ (8 * s.regs.cucBasic.toNat)) :
    fixValue s.putElapsed.regs = encodedSec s * 2 ^ (8 * s.regs.cucFrac.toNat) + encodedFrc s := by
  rw [fixValue, toNat_cucSec_putElapsed hfmt hsec, toNat_cucFrc_putElapsed hfmt hsub]
  rfl

/-- Settles O37: CUC.FROMDT that completes leaves a time that fits (`timeFits_putElapsed`), so CUC.TOFIX
completes (`cucTofixResult`), and the two formulas bound its value. -/
theorem fromdtTofixBound : Obligations.FromdtTofixBound := by
  intro s t ht hcode
  obtain ⟨hm, hep, hsec⟩ := fits_of_exec_cucFromdt ht hcode
  obtain ⟨hfmt, hsub⟩ := fits_of_fromdtMask hm
  have hd := dtDen_pos hsub
  cases (exec_cucFromdt_completes hm hep hsec).symm.trans ht
  obtain ⟨hcompletes, -⟩ := cucTofixResult ((s.putElapsed.withVfail 0).complete 0x2500)
  obtain ⟨u, hu, hfix, hbits, -, hdone, -⟩ := hcompletes (timeFits_putElapsed hfmt hsub hsec)
  refine ⟨u, hu, errorCode_of_completed hdone, ?_⟩
  rintro _ _ _ rfl rfl rfl
  have hvalue : u.regs.fix.toNat = _ := hfix.trans (fixValue_putElapsed hfmt hsub hsec)
  have hwidth : u.regs.fixFbits.toNat = 8 * s.regs.cucFrac.toNat := hbits
  rw [← cast_elapsed hep]
  refine ⟨fun hfrac => ?_, fun hfrac => ?_⟩
  · have hscaled : u.regs.fix.toNat =
        elapsed s / s.params.dtDen * 2 ^ (8 * s.regs.cucFrac.toNat)
          + rhe (elapsed s % s.params.dtDen * (2 ^ (8 * s.regs.cucFrac.toNat) - 1)) s.params.dtDen := by
      rw [hvalue, encodedSec, encodedFrc, fromdtSec, fromdtFrc, if_pos hfrac, if_pos hfrac]
    have hbound := scaled_value_bound hd (Nat.two_pow_pos _) hscaled
    rw [hwidth]
    exact_mod_cast hbound
  · have hrounded : u.regs.fix.toNat = rhe (elapsed s) s.params.dtDen := by
      rw [hvalue, encodedSec, encodedFrc, fromdtSec, fromdtFrc, hfrac]
      simp
    exact rounded_value_bound hd hrounded

end Sys2Proof.Machine
end

section
/-! PROOFS. The primary header: the bytes `hdr_pack` lays, and `hdr_unpack` as its inverse
(42_space_packet.md R151). -/

namespace Sys2Proof.Machine

/-- The number a header is laid down as: its fields one after another (42_space_packet.md R151). -/
theorem Header.toNat_word (h : Header) :
    h.word.toNat =
      (((((h.ver.toNat * 2 + h.typ.toNat) * 2 + h.shf.toNat) * 2048 + h.apid.toNat) * 4
        + h.seqf.toNat) * 16384 + h.seqc.toNat) * 65536 + h.dl.toNat := by
  simp only [Header.word, packetId, toNat_append_eq_mul_add, Nat.reducePow]

/-- The fields at their places in the six bytes of a header (42_space_packet.md R151). -/
def headerOfWord (w : BitVec 48) : Header where
  ver := w.extractLsb' 45 3
  typ := w.extractLsb' 44 1
  shf := w.extractLsb' 43 1
  apid := w.extractLsb' 32 11
  seqf := w.extractLsb' 30 2
  seqc := w.extractLsb' 16 14
  dl := w.extractLsb' 0 16

theorem hdrUnpack_eq (s : Bytes) : hdrUnpack s = headerOfWord (BitVec.ofNat 48 (beVal s)) := rfl

theorem word_headerOfWord (w : BitVec 48) : (headerOfWord w).word = w := by
  have hw := w.isLt
  apply BitVec.eq_of_toNat_eq
  simp only [Header.toNat_word, headerOfWord, BitVec.extractLsb'_toNat, Nat.shiftRight_eq_div_pow]
  omega

theorem headerOfWord_word (h : Header) : headerOfWord h.word = h := by
  have hword := h.toNat_word
  obtain ⟨ver, typ, shf, apid, seqf, seqc, dl⟩ := h
  have := ver.isLt
  have := typ.isLt
  have := shf.isLt
  have := apid.isLt
  have := seqf.isLt
  have := seqc.isLt
  have := dl.isLt
  simp only [headerOfWord, Header.mk.injEq, ← BitVec.toNat_inj, BitVec.extractLsb'_toNat,
    Nat.shiftRight_eq_div_pow, hword]
  refine ⟨?_, ?_, ?_, ?_, ?_, ?_, ?_⟩ <;> omega

theorem hdrPack_eq_headerBytes (h : Header) :
    hdrPack h =
      headerBytes h.ver.toNat h.typ.toNat h.shf.toNat h.apid.toNat h.seqf.toNat h.seqc.toNat
        h.dl.toNat := by
  have := h.apid.isLt
  have := h.seqc.isLt
  have := h.dl.isLt
  simp only [hdrPack, headerBytes, be, h.toNat_word, List.map_cons, List.map_nil, List.cons.injEq,
    ← BitVec.toNat_inj, BitVec.toNat_ofNat]
  refine ⟨?_, ?_, ?_, ?_, ?_, ?_, trivial⟩ <;> omega

theorem hdrUnpack_hdrPack (h : Header) : hdrUnpack (hdrPack h) = h := by
  have hlt : h.word.toNat < 256 ^ 6 := h.word.isLt
  rw [hdrUnpack_eq, hdrPack, beVal_be, Nat.mod_eq_of_lt hlt, BitVec.ofNat_toNat, BitVec.setWidth_eq,
    headerOfWord_word]

theorem hdrPack_hdrUnpack {s : Bytes} (hs : s.length = 6) : hdrPack (hdrUnpack s) = s := by
  have hlt : beVal s < 2 ^ 48 := (beVal_lt s).trans_eq (by rw [hs]; rfl)
  rw [hdrPack, hdrUnpack_eq, word_headerOfWord, BitVec.toNat_ofNat, Nat.mod_eq_of_lt hlt, ← hs, be_beVal]

/-- Settles O26: a header is the number its fields make one after another, whose image is the bytes of the
table (`hdrPack_eq_headerBytes`) and from which the fields are read again. -/
theorem headerLayout : Obligations.HeaderLayout :=
  ⟨hdrPack_eq_headerBytes, hdrUnpack_hdrPack, fun _ => hdrPack_hdrUnpack⟩

end Sys2Proof.Machine
end

section
/-! PROOFS. What a PACK operation commits, and what the checks make it refuse (42_space_packet.md R150 to R155,
45_validators.md R215). -/

namespace Sys2Proof.Machine

variable {s t u : State} {b : BufSel} {i : Instr} {m : Mask} {ks : List Nat} {pl : Nat} {pf : Bool}

/-! ### Parts of a buffer (00_scope.md R13) -/

theorem State.slice_add (s : State) (b : BufSel) (off m n : Nat) :
    s.slice b off (m + n) = s.slice b off m ++ s.slice b (off + m) n := by
  induction m generalizing off with
  | zero => rw [Nat.zero_add]; rfl
  | succ m ih =>
    rw [Nat.add_right_comm, State.slice, ih, State.slice, List.cons_append, Nat.add_right_comm off 1 m]
    rfl

theorem State.byteAt_of_slice {off n k : Nat} (h : t.slice b off n = s.slice b off n) (hk : k < n) :
    t.byteAt b (off + k) = s.byteAt b (off + k) := by
  rw [← t.getElem_slice b off n k (by simpa using hk), ← s.getElem_slice b off n k (by simpa using hk)]
  simp only [h]

/-- A part of the valid bytes. -/
theorem State.slice_of_valid {data : Bytes} (h : s.valid b = data) {off n : Nat}
    (hn : off + n ≤ data.length) : s.slice b off n = (data.drop off).take n := by
  have hlen : s.lengthOf b = off + (n + (data.length - (off + n))) := by
    rw [← s.length_valid, h]
    omega
  rw [← h, State.valid, hlen, State.slice_add, Nat.zero_add, State.slice_add,
    List.drop_left' (State.length_slice ..), List.take_left' (State.length_slice ..)]

theorem State.valid_complete (s : State) (w : CmdWord) (b : BufSel) : (s.complete w).valid b = s.valid b := by
  have hlen : (s.complete w).lengthOf b = s.lengthOf b := by cases b <;> rfl
  rw [State.valid, hlen]
  exact State.slice_congr fun k _ _ => State.byteAt_complete s w b k

/-! ### The packet in PKT (42_space_packet.md R150 to R155) -/

/-- The packet a pack operation builds from the registers and a payload (42_space_packet.md R154). -/
def packetOf (r : Regs) (typ shf : BitVec 1) (p : Bytes) : Bytes :=
  packetBytes (r.header typ shf (p.length + r.pecLen - 1)) p r.pec

theorem packetBytes_eq (h : Header) (p : Bytes) (pec : Bool) :
    packetBytes h p pec = hdrPack h ++ p ++ (if pec then pecBytes (crc16 (hdrPack h ++ p)) else []) := by
  cases pec with
  | true => rfl
  | false => exact (List.append_nil _).symm

theorem length_packetOf (r : Regs) (typ shf : BitVec 1) (p : Bytes) :
    (packetOf r typ shf p).length = 6 + p.length + r.pecLen :=
  length_packetBytes ..

theorem byteAt_putPacket_pkt (s : State) (typ shf : BitVec 1) (p : Bytes) (k : Nat) :
    (s.putPacket typ shf p).byteAt .pkt k = (s.put .pkt (packetOf s.regs typ shf p)).byteAt .pkt k :=
  rfl

theorem toNat_pktLen_putPacket {p : Bytes} (hmax : p.length + s.regs.pecLen ≤ 65536)
    (typ shf : BitVec 1) :
    (s.putPacket typ shf p).regs.pktLen.toNat = 6 + p.length + s.regs.pecLen := by
  have hlen := length_packetOf s.regs typ shf p
  have hregs : (s.putPacket typ shf p).regs.pktLen = BitVec.ofNat 32 (packetOf s.regs typ shf p).length :=
    rfl
  rw [hregs, hlen, BitVec.toNat_ofNat]
  omega

theorem valid_putPacket {p : Bytes} (hmax : p.length + s.regs.pecLen ≤ 65536) (typ shf : BitVec 1) :
    (s.putPacket typ shf p).valid .pkt = packetOf s.regs typ shf p := by
  have hlen := length_packetOf s.regs typ shf p
  rw [State.valid, State.lengthOf, toNat_pktLen_putPacket hmax,
    State.slice_congr fun k _ _ => byteAt_putPacket_pkt s typ shf p k,
    State.slice_put _ _ _ _ _ (by omega), List.drop_zero, ← hlen, List.take_length]

/-- The checks have shown that every value fits, so the header's fields are the registers' values
(45_validators.md R212). -/
theorem hdrPack_header {r : Regs} (hfits : HeaderFits false r) (typ shf : BitVec 1) {dl : Nat}
    (hdl : dl < 65536) :
    hdrPack (r.header typ shf dl) =
      headerBytes r.ver.toNat typ.toNat shf.toNat r.apid.toNat r.seqf.toNat r.seqc.toNat dl := by
  obtain ⟨hver, -, hapid, hseqf, hseqc⟩ := hfits
  rw [hdrPack_eq_headerBytes]
  simp only [Regs.header, BitVec.toNat_setWidth, BitVec.toNat_ofNat]
  congr 1 <;> omega

theorem packetOf_eq {r : Regs} (hfits : HeaderFits false r) (typ shf : BitVec 1) {p : Bytes}
    (hmin : 1 ≤ p.length + r.pecLen) (hmax : p.length + r.pecLen ≤ 65536) :
    let h := headerBytes r.ver.toNat typ.toNat shf.toNat r.apid.toNat r.seqf.toNat r.seqc.toNat
      (p.length + r.pecLen - 1)
    packetOf r typ shf p = h ++ p ++ (if r.hasPec = 1 then be 2 (crc16 (h ++ p)).toNat else []) := by
  dsimp only
  rw [packetOf, packetBytes_eq, hdrPack_header hfits typ shf (by omega)]
  simp only [pec_iff, pecBytes]

/-- What a pack operation commits of a payload, with values that fit, is the packet
(42_space_packet.md R150 to R155). -/
theorem packetBuilt_putPacket (hfits : HeaderFits false s.regs) (typ shf : BitVec 1) {p : Bytes}
    (hmin : 1 ≤ p.length + s.regs.pecLen) (hmax : p.length + s.regs.pecLen ≤ 65536) :
    PacketBuilt s (s.putPacket typ shf p) typ.toNat shf.toNat p := by
  refine ⟨(valid_putPacket hmax typ shf).trans (packetOf_eq hfits typ shf hmin hmax),
    toNat_pktLen_putPacket hmax typ shf, Nat.mod_eq_of_lt (by omega), fun k hk => ?_⟩
  have hlen := length_packetOf s.regs typ shf p
  rw [byteAt_putPacket_pkt, State.byteAt_put, dif_neg (by omega)]

theorem PacketBuilt.complete {typ shf : Nat} {p : Bytes} (h : PacketBuilt s t typ shf p) (w : CmdWord) :
    PacketBuilt s (t.complete w) typ shf p := by
  obtain ⟨hvalid, hpktLen, hdlen, hbeyond⟩ := h
  exact ⟨(t.valid_complete w .pkt).trans hvalid, hpktLen, hdlen, hbeyond⟩

/-! ### What the checks make a PACK operation refuse (45_validators.md R215) -/

theorem packRaise_zero (s : State) : packRaise s 0 = none := by simp [packRaise]

theorem packRaise_of_format (h : m.getLsbD 18 = true) : packRaise s m = some (.timefmt .registers) :=
  if_pos h

/-- `pack_raise` looks at every required check but those of the format and of the capacity. -/
theorem packRaise_of_range (hfmt : m.getLsbD 18 = false) {k : Nat} (hk : m.getLsbD k = true)
    (h23 : k ≤ 23) (h22 : k ≠ 22) : packRaise s m = some (.range m) := by
  have hne18 : k ≠ 18 := fun h18 => by
    rw [h18, hfmt] at hk
    cases hk
  have hne : m &&& 0x00BBFFFF ≠ 0 := fun hzero =>
    (mask_and_eq_zero_iff _ _).1 hzero k hk (by
      rw [getLsbD_packRange, decide_eq_true_eq]
      exact ⟨h23, hne18, h22⟩)
  rw [packRaise, if_neg (by rw [hfmt]; exact Bool.false_ne_true), if_pos hne]

theorem packRaise_of_capacity (hlow : ∀ k, k ≤ 23 → k ≠ 22 → m.getLsbD k = false)
    (h22 : m.getLsbD 22 = true) :
    packRaise s m = some (.capacity (if s.params.datCap < s.regs.datLen.toNat then .dat else .pkt)) := by
  have hzero : m &&& 0x00BBFFFF = 0 := (mask_and_eq_zero_iff _ _).2 fun k hk hc => by
    rw [getLsbD_packRange, decide_eq_true_eq] at hc
    obtain ⟨h23, -, hne⟩ := hc
    rw [hlow k h23 hne] at hk
    cases hk
  rw [packRaise, if_neg (by rw [hlow 18 (by decide) (by decide)]; exact Bool.false_ne_true),
    if_neg (not_not.2 hzero), if_pos h22]

theorem info_capacity (c : Prop) [Decidable c] :
    (Err.capacity (if c then .dat else .pkt)).info.toNat = if c then 1 else 0 := by
  split <;> rfl

/-- An operation that raises, with its mask in VFAIL, what `pack_raise` tells it to refuses as
45_validators.md R215 says. Bit 23 belongs to CUC.FROMDT alone. -/
theorem packRefuses_of_exec (hs : ShowsChecks m ks s pl pf) (h23 : 23 ∉ ks)
    (hexec : ∀ e, packRaise s m = some e → exec i s = .next ((s.withVfail m).raise (encode i) e)) :
    PackRefuses i ks s pl pf := by
  rintro ⟨k, hk, hk23, hfails⟩
  obtain ⟨e, he⟩ : ∃ e, packRaise s m = some e := Option.ne_none_iff_exists'.1 fun hnone =>
    (packRaise_eq_none_iff hs).1 hnone ⟨k, hk, hk23, hfails⟩
  have hraise := raisesWithMask_raise (encode i) e m s
  refine ⟨_, m, hexec e he, hs, fun hfmt => ?format, fun hfmt hrange => ?range, fun hcap => ?capacity⟩
  case format =>
    cases he.symm.trans (packRaise_of_format ((hs 18).2 hfmt))
    exact hraise
  case range =>
    obtain ⟨j, hj, hj21, hjfails⟩ := hrange
    cases he.symm.trans (packRaise_of_range (Bool.eq_false_iff.2 (mt (hs 18).1 hfmt))
      ((hs j).2 ⟨hj, hjfails⟩) (by omega) (by omega))
    exact hraise
  case capacity =>
    have hlow (j : Nat) (hj23 : j ≤ 23) (hj22 : j ≠ 22) : m.getLsbD j = false :=
      Bool.eq_false_iff.2 fun hj => by
        obtain ⟨hmem, hjfails⟩ := (hs j).1 hj
        have hne : j ≠ 23 := fun h => h23 (h ▸ hmem)
        exact hcap j hmem (by omega) hjfails
    have hk22 : k = 22 := by
      by_contra hne
      have hbit := (hs k).2 ⟨hk, hfails⟩
      rw [hlow k hk23 hne] at hbit
      cases hbit
    cases he.symm.trans (packRaise_of_capacity hlow ((hs 22).2 (hk22 ▸ ⟨hk, hfails⟩)))
    rwa [info_capacity] at hraise

end Sys2Proof.Machine
end

section
/-! PROOFS. SP.PACK (42_space_packet.md R154, R155). -/

namespace Sys2Proof.Machine

variable {s t : State}

theorem spChecks_pass_iff {pl : Nat} {pf : Bool} :
    (∀ k ∈ spChecks, ¬checkFails s pl pf k) ↔ HeaderFits true s.regs ∧ LengthFits s pl := by
  simp only [spChecks, List.forall_mem_cons, checkFails, HeaderFits, LengthFits, List.not_mem_nil,
    false_imp_iff, implies_true, and_true, true_imp_iff]
  omega

theorem spMask_eq_zero_iff :
    spMask s = 0 ↔ HeaderFits true s.regs ∧ LengthFits s s.regs.datLen.toNat :=
  (mask_zero_iff (spMask_shows s)).trans spChecks_pass_iff

theorem HeaderFits.of_full {r : Regs} (h : HeaderFits true r) (full : Bool) : HeaderFits full r := by
  obtain ⟨hver, htypes, hrest⟩ := h
  exact ⟨hver, fun _ => htypes rfl, hrest⟩

/-- What SP.PACK commits: the packet of the registers and DAT (42_space_packet.md R154). -/
def State.packSp (s : State) : State :=
  (s.withVfail 0).putPacket (s.regs.ptype.setWidth 1) (s.regs.shf.setWidth 1) (s.valid .dat)

theorem keeps_packSp (s : State) : Keeps [.vfail, .pktLen, .dlen] [.pkt] s s.packSp :=
  (Keeps.refl _ _ s).extend (keeps_withVfail s 0) (by decide) (by decide)
    |>.extend (keeps_putPacket _ _ _ _) (by decide) (by decide)

theorem exec_spPack_completes (h : spMask s = 0) : exec .spPack s = .next (s.packSp.complete 0x3100) := by
  show execSpPack s = _
  simp only [execSpPack, h, packRaise_zero, finish_ok]
  rfl

theorem exec_spPack_refuses {e : Err} (he : packRaise s (spMask s) = some e) :
    exec .spPack s = .next ((s.withVfail (spMask s)).raise 0x3100 e) := by
  show execSpPack s = _
  simp only [execSpPack, he, finish_error]
  rfl

/-- TYPE and SHF that fit are single bits (45_validators.md R212). -/
theorem toNat_types_of_fits {r : Regs} (hfits : HeaderFits true r) :
    (r.ptype.setWidth 1).toNat = r.ptype.toNat ∧ (r.shf.setWidth 1).toNat = r.shf.toNat := by
  obtain ⟨-, htypes, -⟩ := hfits
  obtain ⟨htyp, hshf⟩ := htypes rfl
  exact ⟨Nat.mod_eq_of_lt (by omega), Nat.mod_eq_of_lt (by omega)⟩

/-- The payload of SP.PACK is DAT, so its length is DAT_LEN (42_space_packet.md R154). -/
theorem packetBuilt_packSp (hfits : HeaderFits true s.regs) (hlen : LengthFits s s.regs.datLen.toNat) :
    PacketBuilt s s.packSp s.regs.ptype.toNat s.regs.shf.toNat (s.valid .dat) := by
  obtain ⟨hmin, hmax, -⟩ := hlen
  obtain ⟨htyp, hshf⟩ := toNat_types_of_fits hfits
  have hp : (s.valid .dat).length = s.regs.datLen.toNat := State.length_valid s .dat
  rw [← hp] at hmin hmax
  rw [← htyp, ← hshf]
  exact packetBuilt_putPacket (s := s.withVfail 0) (hfits.of_full false) _ _ hmin hmax

/-- Settles O39: SP.PACK builds the packet when the mask is 0, and otherwise raises what `pack_raise` tells
(`packRefuses_of_exec`). -/
theorem spPackResult : Obligations.SpPackResult := by
  intro s
  refine ⟨fun hfits hlen => ?completes, ?refuses, rfl⟩
  case completes =>
    exact ⟨_, exec_spPack_completes (spMask_eq_zero_iff.2 ⟨hfits, hlen⟩),
      (packetBuilt_packSp hfits hlen).complete _, rfl, completed_complete _ _, (keeps_packSp s).complete _⟩
  case refuses =>
    exact packRefuses_of_exec (spMask_shows s) (by decide) fun _ he => exec_spPack_refuses he

end Sys2Proof.Machine
end

section
/-! PROOFS. SP.PARSE (42_space_packet.md R156, R157). -/

namespace Sys2Proof.Machine

variable {s t : State} {f : Frame}

/-- What SP.PARSE commits of a frame (42_space_packet.md R157). -/
def State.takeSp (s : State) (f : Frame) : State :=
  ({ s with regs := { s.regs.putFrame f with vfail := 0 } }).put .dat (s.slice .pkt 6 f.pl)

theorem keeps_takeSp (s : State) (f : Frame) :
    Keeps [.ver, .ptype, .shf, .apid, .seqf, .seqc, .dlen, .pecRx, .datLen, .vfail] [.dat] s
      (s.takeSp f) :=
  (Keeps.refl _ _ s).extend (keeps_putFrame s f) (by decide) (by decide)
    |>.extend (keeps_withVfail _ 0) (by decide) (by decide)
    |>.extend (keeps_put _ .dat _) (by decide) (by decide)

theorem exec_spParse_refuses {e : Err} (he : frameSplit s = .error e) :
    exec .spParse s = .next (s.raise 0x3200 e) := by
  show execSpParse s = _
  simp only [execSpParse, he, finish_error]
  rfl

theorem exec_spParse_beyond (hf : frameSplit s = .ok f) (hcap : s.capacity .dat < f.pl) :
    exec .spParse s = .next (s.raise 0x3200 (.capacity .dat)) := by
  show execSpParse s = _
  simp only [execSpParse, hf, if_pos hcap, finish_error]
  rfl

theorem exec_spParse_completes (hf : frameSplit s = .ok f) (hcap : f.pl ≤ s.capacity .dat) :
    exec .spParse s = .next ((s.takeSp f).complete 0x3200) := by
  show execSpParse s = _
  simp only [execSpParse, hf, if_neg (Nat.not_lt.2 hcap), finish_ok]
  rfl

/-- Registers that hold a split frame hold what R151 and R157 of 42_space_packet.md say, whatever else the
operation writes. -/
theorem frameParsed_of_putFrame (hf : frameSplit s = .ok f)
    (hregs : ∀ r ∈ [Reg.ver, .ptype, .shf, .apid, .seqf, .seqc, .dlen, .pecRx],
      t.regs.get r = (s.regs.putFrame f).get r) : FrameParsed s t := by
  rcases frameSplit_cases s with ⟨f', hf', -, hhdr, -, hpec, hnopec, -⟩ | ⟨e, he, -⟩
  · cases hf'.symm.trans hf
    obtain ⟨hver, htyp, hshf, hapid, hseqf, hseqc, hdl⟩ := hdrUnpack_pkt s
    simp only [List.forall_mem_cons] at hregs
    obtain ⟨gver, gtyp, gshf, gapid, gseqf, gseqc, gdl, gpec, -⟩ := hregs
    simp only [Regs.get, Regs.putFrame, hhdr] at gver gtyp gshf gapid gseqf gseqc gdl gpec
    simp only [FrameParsed, gver, gtyp, gshf, gapid, gseqf, gseqc, gdl, gpec, BitVec.toNat_setWidth_of_le,
      Nat.reduceLeDiff, hver, htyp, hshf, hapid, hseqf, hseqc, hdl, true_and]
    exact ⟨hpec, hnopec⟩
  · cases he.symm.trans hf

theorem DataIs.complete {data : Bytes} (h : DataIs s t data) (w : CmdWord) :
    DataIs s (t.complete w) data := by
  obtain ⟨hvalid, hdatLen, hbeyond⟩ := h
  exact ⟨(t.valid_complete w .dat).trans hvalid, hdatLen, hbeyond⟩

theorem dataIs_takeSp (hpl : f.pl = payloadLen s) (hmax : payloadLen s ≤ 65536) :
    DataIs s (s.takeSp f) (payload s) := by
  have hlen : (s.slice .pkt 6 f.pl).length = payloadLen s := by rw [State.length_slice, hpl]
  rw [payload, ← hpl]
  refine dataIs_of_put (fun k => ?_) (Nat.mod_eq_of_lt (by omega))
  exact State.byteAt_congr rfl rfl k

theorem spParseError_of_split (h : frameError s = none) :
    spParseError s = if s.params.datCap < payloadLen s then some (8, 1) else none := by
  rw [spParseError, h]
  rfl

theorem spParseError_of_error {code info : Nat} (h : frameError s = some (code, info)) :
    spParseError s = some (code, info) := by
  rw [spParseError, h]
  rfl

/-- Settles O40, by what splitting the frame can do (`frameSplit_cases`) and the test of DAT_CAP behind it. -/
theorem spParseResult : Obligations.SpParseResult := by
  intro s
  rcases frameSplit_cases s with
    ⟨f, hf, hnone, -, hpl, -, -, -, -, hmax, -⟩ | ⟨e, he, herr⟩
  case inl =>
    rw [spParseError_of_split hnone]
    rcases Nat.lt_or_ge s.params.datCap (payloadLen s) with hcap | hcap
    · rw [if_pos hcap]
      refine ⟨fun h => (by cases h), fun code info h => ?_⟩
      cases h
      exact ⟨_, exec_spParse_beyond hf (hpl ▸ hcap), raisesPlainly_capacity _ .dat s⟩
    · rw [if_neg (Nat.not_lt.2 hcap)]
      refine ⟨fun _ => ⟨_, exec_spParse_completes hf (hpl ▸ hcap), frameParsed_of_putFrame hf fun r hr => ?_,
        ?_, rfl, completed_complete _ _, ?_⟩, fun code info h => (by cases h)⟩
      · cases r <;> first | rfl | simp at hr
      · exact (dataIs_takeSp hpl hmax).complete _
      · exact (Keeps.refl _ _ s).extend (keeps_takeSp s f) (by decide) (by decide)
          |>.extend (keeps_complete _ _) (by decide) (by decide)
  case inr =>
    rw [spParseError_of_error herr]
    refine ⟨fun h => (by cases h), fun code info h => ?_⟩
    cases h
    exact ⟨_, exec_spParse_refuses he, raisesPlainly_raise _ e s⟩

end Sys2Proof.Machine
end

section
/-! PROOFS. A packet in PKT that a PACK operation has built: how its frame splits (42_space_packet.md R156,
R158). -/

namespace Sys2Proof.Machine

variable {s t u v : State} {r : Regs} {typ shf : BitVec 1} {p : Bytes}

theorem SamePacket.valid (h : SamePacket t u) : u.valid .pkt = t.valid .pkt := by
  obtain ⟨-, hpktLen, -, hbyte⟩ := h
  have hlen : u.lengthOf .pkt = t.lengthOf .pkt := congrArg BitVec.toNat hpktLen
  rw [State.valid, hlen]
  exact State.slice_congr fun k _ hk => hbyte k (by rwa [Nat.zero_add] at hk)

theorem pec_congr {r r' : Regs} (h : r'.hasPec = r.hasPec) : r'.pec = r.pec := by rw [Regs.pec, h, Regs.pec]

theorem pecLen_congr {r r' : Regs} (h : r'.hasPec = r.hasPec) : r'.pecLen = r.pecLen := by
  rw [pecLen_eq, pecLen_eq, pec_congr h]

/-- PKT of `u` holds the packet that the registers `r` make of the payload `p`, and HAS_PEC is as it was when
the packet was built. -/
structure HoldsPacket (r : Regs) (typ shf : BitVec 1) (p : Bytes) (u : State) : Prop where
  nonempty : 1 ≤ p.length + r.pecLen
  short : p.length + r.pecLen ≤ 65536
  valid : u.valid .pkt = packetOf r typ shf p
  hasPec : u.regs.hasPec = r.hasPec
  within : u.regs.pktLen.toNat ≤ u.params.pktCap

namespace HoldsPacket

theorem of_samePacket (h : HoldsPacket r typ shf p t) (hs : SamePacket t u) :
    HoldsPacket r typ shf p u := by
  obtain ⟨hparams, hpktLen, hhasPec, -⟩ := id hs
  exact ⟨h.nonempty, h.short, hs.valid.trans h.valid, hhasPec.trans h.hasPec,
    by rw [hpktLen, hparams]; exact h.within⟩

variable (h : HoldsPacket r typ shf p u)
include h

theorem pktLen_eq : u.regs.pktLen.toNat = 6 + p.length + r.pecLen := by
  rw [← length_packetOf r typ shf p, ← h.valid, State.length_valid]
  rfl

theorem slice_header : u.slice .pkt 0 6 = hdrPack (r.header typ shf (p.length + r.pecLen - 1)) := by
  rw [State.slice_of_valid h.valid (by rw [length_packetOf]; omega), packetOf, packetBytes_eq,
    List.drop_zero, List.append_assoc, List.take_left' (length_hdrPack _)]

theorem slice_payload : u.slice .pkt 6 p.length = p := by
  rw [State.slice_of_valid h.valid (by rw [length_packetOf]; omega), packetOf, packetBytes_eq,
    List.append_assoc, List.drop_left' (length_hdrPack _), List.take_left' rfl]

/-- The PEC is that of all preceding bytes (42_space_packet.md R153). -/
theorem slice_pec (hpec : r.pec = true) :
    u.slice .pkt (6 + p.length) 2 = pecBytes (crc16 (u.slice .pkt 0 (6 + p.length))) := by
  have htwo : r.pecLen = 2 := by rw [pecLen_eq, if_pos hpec]
  have hbody : (hdrPack (r.header typ shf (p.length + r.pecLen - 1)) ++ p).length = 6 + p.length := by
    rw [List.length_append, length_hdrPack]
  rw [State.slice_of_valid h.valid (by rw [length_packetOf, htwo]), packetOf, packetBytes_eq,
    List.drop_left' hbody, if_pos hpec, List.take_of_length_le (length_pecBytes _).le, State.slice_add,
    h.slice_header, Nat.zero_add, h.slice_payload]

theorem hdrUnpack_eq_header :
    hdrUnpack (u.slice .pkt 0 6) = r.header typ shf (p.length + r.pecLen - 1) := by
  rw [h.slice_header, hdrUnpack_hdrPack]

/-- The length invariant (42_space_packet.md R155). -/
theorem declared_eq : declared u = p.length + r.pecLen - 1 := by
  obtain ⟨-, -, -, -, -, -, hdl⟩ := hdrUnpack_pkt u
  have := h.short
  rw [← hdl, h.hdrUnpack_eq_header]
  exact Nat.mod_eq_of_lt (by omega)

theorem payloadLen_eq : payloadLen u = p.length := by
  have := h.nonempty
  rw [payloadLen, h.declared_eq, pecLen_congr h.hasPec]
  omega

theorem payload_eq : payload u = p := by rw [payload, h.payloadLen_eq, h.slice_payload]

theorem frameError_eq_none : frameError u = none := by
  have hpktLen := h.pktLen_eq
  have := h.nonempty
  have hwithin := h.within
  have hpec : ¬(u.regs.pec = true ∧ p.length + r.pecLen - 1 + 1 < 2) := by
    rintro ⟨hpec, hlt⟩
    rw [pecLen_eq, ← pec_congr h.hasPec, if_pos hpec] at hlt
    omega
  rw [frameError, h.declared_eq, if_neg (by omega), if_neg (by omega), if_neg (by omega),
    if_neg (by omega), if_neg hpec]

end HoldsPacket

/-! ### What the registers of a parsed frame hold -/

/-- The registers hold the unpacked header (42_space_packet.md R157). -/
theorem FrameParsed.header (h : FrameParsed s t) :
    let f := hdrUnpack (s.slice .pkt 0 6)
    t.regs.ver.toNat = f.ver.toNat ∧ t.regs.ptype.toNat = f.typ.toNat ∧ t.regs.shf.toNat = f.shf.toNat
      ∧ t.regs.apid.toNat = f.apid.toNat ∧ t.regs.seqf.toNat = f.seqf.toNat
      ∧ t.regs.seqc.toNat = f.seqc.toNat ∧ t.regs.dlen = f.dl := by
  obtain ⟨hver, htyp, hshf, hapid, hseqf, hseqc, hdl⟩ := hdrUnpack_pkt s
  obtain ⟨tver, ttyp, tshf, tapid, tseqf, tseqc, tdl, -⟩ := h
  exact ⟨tver.trans hver.symm, ttyp.trans htyp.symm, tshf.trans hshf.symm, tapid.trans hapid.symm,
    tseqf.trans hseqf.symm, tseqc.trans hseqc.symm, BitVec.eq_of_toNat_eq (tdl.trans hdl.symm)⟩

/-- PEC_RX holds the two bytes behind the payload (42_space_packet.md R156). -/
theorem FrameParsed.pecBytes_pecRx (h : FrameParsed s t) (hpec : s.regs.pec = true) :
    pecBytes t.regs.pecRx = s.slice .pkt (6 + payloadLen s) 2 := by
  obtain ⟨-, -, -, -, -, -, -, hrx, -⟩ := h
  have hval : t.regs.pecRx.toNat = beVal (s.slice .pkt (6 + payloadLen s) 2) := by
    rw [hrx hpec, State.slice, State.slice, State.slice, beVal, beValFrom, beValFrom, beValFrom,
      Nat.zero_mul, Nat.zero_add]
  have himage := be_beVal (s.slice .pkt (6 + payloadLen s) 2)
  rwa [← hval, State.length_slice] at himage

/-- The image of a PEC tells the PEC. -/
theorem pecBytes_inj {c d : BitVec 16} : pecBytes c = pecBytes d ↔ c = d := by
  refine ⟨fun h => BitVec.eq_of_toNat_eq ?_, congrArg pecBytes⟩
  rw [← beVal_be_of_lt (n := 2) c.isLt, ← beVal_be_of_lt (n := 2) d.isLt]
  exact congrArg beVal h

/-- Reading a built packet gives back the header registers it was built from (42_space_packet.md R158). -/
theorem HoldsPacket.agree (h : HoldsPacket s.regs typ shf p u) (hfits : HeaderFits false s.regs)
    (hparsed : FrameParsed u v) : Agree [.ver, .apid, .seqf, .seqc] s v := by
  obtain ⟨hver, -, hapid, hseqf, hseqc⟩ := hfits
  obtain ⟨vver, -, -, vapid, vseqf, vseqc, -⟩ := hparsed.header
  rw [h.hdrUnpack_eq_header] at vver vapid vseqf vseqc
  simp only [Agree, List.forall_mem_cons]
  refine ⟨BitVec.eq_of_toNat_eq (vver.trans ?_), BitVec.eq_of_toNat_eq (vapid.trans ?_),
    BitVec.eq_of_toNat_eq (vseqf.trans ?_), BitVec.eq_of_toNat_eq (vseqc.trans ?_), fun _ hr => by cases hr⟩
  all_goals exact Nat.mod_eq_of_lt (by omega)

theorem HoldsPacket.types_eq (h : HoldsPacket r typ shf p u) (hparsed : FrameParsed u v) :
    v.regs.ptype.toNat = typ.toNat ∧ v.regs.shf.toNat = shf.toNat := by
  obtain ⟨-, vtyp, vshf, -⟩ := hparsed.header
  rw [h.hdrUnpack_eq_header] at vtyp vshf
  exact ⟨vtyp, vshf⟩

theorem HoldsPacket.dlen_eq (h : HoldsPacket r typ shf p u) (hparsed : FrameParsed u v) :
    v.regs.dlen = BitVec.ofNat 16 (p.length + r.pecLen - 1) := by
  obtain ⟨-, -, -, -, -, -, vdlen⟩ := hparsed.header
  rw [vdlen, h.hdrUnpack_eq_header]
  rfl

theorem HoldsPacket.pecRx_eq (h : HoldsPacket r typ shf p u) (hpec : r.pec = true)
    (hparsed : FrameParsed u v) : v.regs.pecRx = crc16 (u.slice .pkt 0 (6 + p.length)) := by
  rw [← pecBytes_inj, hparsed.pecBytes_pecRx (by rwa [pec_congr h.hasPec]), h.payloadLen_eq,
    h.slice_pec hpec]

end Sys2Proof.Machine
end

section
/-! PROOFS. SP.PACK and SP.PARSE one after the other, in both orders (42_space_packet.md R158). -/

namespace Sys2Proof.Machine

variable {s t u v : State}

/-! ### SP.PACK, then SP.PARSE -/

theorem exists_packRaise_spMask (h : spMask s ≠ 0) : ∃ e, packRaise s (spMask s) = some e := by
  refine Option.ne_none_iff_exists'.1 fun hnone => h ((mask_zero_iff (spMask_shows s)).2 fun k hk => ?_)
  have h23 : ∀ j ∈ spChecks, j ≤ 23 := by decide
  exact not_checkFails_of_packRaise (spMask_shows s) hnone hk (h23 k hk)

theorem spMask_eq_zero_of_exec (h : exec .spPack s = .next t) (hcode : errorCode t = 0) : spMask s = 0 := by
  by_contra hne
  obtain ⟨e, he⟩ := exists_packRaise_spMask hne
  cases (exec_spPack_refuses he).symm.trans h
  rw [errorCode_raise] at hcode
  have := e.code_pos
  omega

theorem holdsPacket_packSp (hlen : LengthFits s s.regs.datLen.toNat) (w : CmdWord) :
    HoldsPacket s.regs (s.regs.ptype.setWidth 1) (s.regs.shf.setWidth 1) (s.valid .dat)
      (s.packSp.complete w) := by
  obtain ⟨hmin, hmax, -, hcap⟩ := hlen
  have hp : (s.valid .dat).length = s.regs.datLen.toNat := State.length_valid s .dat
  rw [← hp] at hmin hmax hcap
  refine ⟨hmin, hmax, ?valid, rfl, ?within⟩
  case valid =>
    rw [State.valid_complete]
    exact valid_putPacket (s := s.withVfail 0) hmax _ _
  case within =>
    have hpktLen := toNat_pktLen_putPacket (s := s.withVfail 0) hmax (s.regs.ptype.setWidth 1)
      (s.regs.shf.setWidth 1)
    exact (hpktLen.trans (Nat.add_assoc _ _ _)).trans_le hcap

/-- Settles O41: SP.PACK that completes leaves the packet in PKT (`holdsPacket_packSp`), whose frame splits
into the header and the payload it was built from, and SP.PARSE reads it (`spParseResult`). -/
theorem spRoundTrip : Obligations.SpRoundTrip := by
  intro s t u hpack hcode hsame
  have hmask := spMask_eq_zero_of_exec hpack hcode
  obtain ⟨hfits, hlen⟩ := spMask_eq_zero_iff.1 hmask
  cases (exec_spPack_completes hmask).symm.trans hpack
  have ht := holdsPacket_packSp hlen 0x3100
  have hu := ht.of_samePacket hsame
  have hp : (s.valid .dat).length = s.regs.datLen.toNat := State.length_valid s .dat
  have hroom : payloadLen u ≤ u.params.datCap := by
    obtain ⟨hparams, -⟩ := hsame
    obtain ⟨-, -, hdat, -⟩ := hlen
    rw [hu.payloadLen_eq, hp, hparams]
    exact hdat
  obtain ⟨hcompletes, -⟩ := spParseResult u
  obtain ⟨v, hv, hparsed, ⟨hdata, hdataLen, -⟩, -, hcompleted, -⟩ := hcompletes
    ((spParseError_of_split hu.frameError_eq_none).trans (if_neg (Nat.not_lt.2 hroom)))
  rw [hu.payload_eq] at hdata hdataLen
  refine ⟨v, hv, errorCode_of_completed hcompleted, ?agree, hu.dlen_eq hparsed, hdata, fun hhasPec => ?pec⟩
  case agree =>
    have hheader := hu.agree (hfits.of_full false) hparsed
    simp only [Agree, List.forall_mem_cons] at hheader ⊢
    obtain ⟨hver, hapid, hseqf, hseqc, -⟩ := hheader
    obtain ⟨htyp, hshf⟩ := hu.types_eq hparsed
    obtain ⟨styp, sshf⟩ := toNat_types_of_fits hfits
    exact ⟨hver, BitVec.eq_of_toNat_eq (htyp.trans styp), BitVec.eq_of_toNat_eq (hshf.trans sshf), hapid,
      hseqf, hseqc, BitVec.eq_of_toNat_eq (hdataLen.trans hp), fun _ hr => by cases hr⟩
  case pec =>
    have hpec : s.regs.pec = true := (pec_iff _).2 hhasPec
    have htwo : s.regs.pecLen = 2 := by rw [pecLen_eq, if_pos hpec]
    obtain ⟨-, -, -, hbyte⟩ := hsame
    have hpktLen := ht.pktLen_eq
    rw [hu.pecRx_eq hpec hparsed, hpktLen, htwo, Nat.add_sub_cancel]
    exact congrArg crc16 (State.slice_congr fun k _ hk => hbyte k (by omega))

/-! ### SP.PARSE, then SP.PACK -/

theorem declared_lt (s : State) : declared s < 65536 := by
  obtain ⟨-, -, -, -, -, -, hdl⟩ := hdrUnpack_pkt s
  exact hdl ▸ BitVec.isLt _

/-- The lengths of a frame that splits (42_space_packet.md R156). -/
theorem lengths_of_frameError (h : frameError s = none) :
    s.regs.pktLen.toNat = 6 + payloadLen s + s.regs.pecLen ∧ s.regs.pktLen.toNat ≤ s.params.pktCap
      ∧ payloadLen s + s.regs.pecLen = declared s + 1 := by
  rcases frameSplit_cases s with ⟨f, -, -, -, -, -, -, hpktLen, hcap, -, hdl⟩ | ⟨e, -, he⟩
  · exact ⟨hpktLen, hcap, hdl⟩
  · cases h.symm.trans he

/-- SP.PARSE completes only on a frame that splits into a payload DAT can hold. -/
theorem splits_of_exec_spParse (h : exec .spParse s = .next t) (hcode : errorCode t = 0) :
    frameError s = none ∧ payloadLen s ≤ s.params.datCap := by
  rcases frameSplit_cases s with ⟨f, hf, hnone, -, hpl, -⟩ | ⟨e, he, -⟩
  · refine ⟨hnone, Nat.le_of_not_lt fun hcap => ?_⟩
    cases (exec_spParse_beyond hf (hpl ▸ hcap)).symm.trans h
    rw [errorCode_raise] at hcode
    cases hcode
  · cases (exec_spParse_refuses he).symm.trans h
    rw [errorCode_raise] at hcode
    have := e.code_pos
    omega

/-- What a completed SP.PARSE has read (`spParseResult`). -/
theorem reads_of_exec_spParse (h : exec .spParse s = .next t) (hcode : errorCode t = 0) :
    FrameParsed s t ∧ DataIs s t (payload s) ∧ Keeps frameRegs [.dat] s t := by
  obtain ⟨hnone, hroom⟩ := splits_of_exec_spParse h hcode
  obtain ⟨hcompletes, -⟩ := spParseResult s
  obtain ⟨t', ht', hparsed, hdata, -, -, hkeeps⟩ := hcompletes
    ((spParseError_of_split hnone).trans (if_neg (Nat.not_lt.2 hroom)))
  cases ht'.symm.trans h
  exact ⟨hparsed, hdata, hkeeps⟩

/-- A parsed header always fits its fields. -/
theorem FrameParsed.headerFits (h : FrameParsed s t) : HeaderFits true t.regs := by
  obtain ⟨hver, htyp, hshf, hapid, hseqf, hseqc, -⟩ := h.header
  refine ⟨?_, fun _ => ⟨?_, ?_⟩, ?_, ?_, ?_⟩
  all_goals omega

/-- Packing the registers of a parsed frame lays the header that was received. -/
theorem FrameParsed.header_eq (h : FrameParsed s t) :
    t.regs.header (t.regs.ptype.setWidth 1) (t.regs.shf.setWidth 1) (declared s) =
      hdrUnpack (s.slice .pkt 0 6) := by
  obtain ⟨hver, htyp, hshf, hapid, hseqf, hseqc, -⟩ := h.header
  obtain ⟨-, -, -, -, -, -, hdl⟩ := hdrUnpack_pkt s
  cases hf : hdrUnpack (s.slice .pkt 0 6) with
  | mk ver typ shf apid seqf seqc dl =>
    rw [hf] at hver htyp hshf hapid hseqf hseqc hdl
    simp only [Regs.header, Header.mk.injEq, ← BitVec.toNat_inj, BitVec.toNat_setWidth, BitVec.toNat_ofNat,
      hver, htyp, hshf, hapid, hseqf, hseqc, ← hdl]
    refine ⟨?_, ?_, ?_, ?_, ?_, ?_, ?_⟩ <;> exact Nat.mod_eq_of_lt (BitVec.isLt _)

/-- The packet up to its PEC. -/
def bodyOf (s : State) : Bytes := s.slice .pkt 0 (6 + payloadLen s)

theorem length_bodyOf (s : State) : (bodyOf s).length = 6 + payloadLen s := State.length_slice ..

/-- Packing what was parsed lays the received bytes, and the PEC that belongs to them
(42_space_packet.md R158). -/
theorem packetOf_parsed (hparsed : FrameParsed s t) (hpec : t.regs.hasPec = s.regs.hasPec)
    (hdl : payloadLen s + s.regs.pecLen = declared s + 1) :
    packetOf t.regs (t.regs.ptype.setWidth 1) (t.regs.shf.setWidth 1) (payload s) =
      bodyOf s ++ (if s.regs.pec then pecBytes (crc16 (bodyOf s)) else []) := by
  have hlen : (payload s).length + t.regs.pecLen - 1 = declared s := by
    rw [payload, State.length_slice, pecLen_congr hpec]
    omega
  have hbody : hdrPack (hdrUnpack (s.slice .pkt 0 6)) ++ payload s = bodyOf s := by
    rw [hdrPack_hdrUnpack (State.length_slice ..), payload, bodyOf, State.slice_add, Nat.zero_add]
  rw [packetOf, packetBytes_eq, hlen, hparsed.header_eq, hbody, pec_congr hpec]

/-- The received packet, with PEC_RX as its PEC (42_space_packet.md R156). -/
theorem valid_of_parsed (hparsed : FrameParsed s t)
    (hpktLen : s.regs.pktLen.toNat = 6 + payloadLen s + s.regs.pecLen) :
    s.valid .pkt = bodyOf s ++ (if s.regs.pec then pecBytes t.regs.pecRx else []) := by
  rw [State.valid, State.lengthOf, hpktLen, State.slice_add, Nat.zero_add, bodyOf, pecLen_eq]
  by_cases hpec : s.regs.pec = true
  · rw [if_pos hpec, if_pos hpec, hparsed.pecBytes_pecRx hpec]
  · rw [if_neg hpec, if_neg hpec]
    rfl

/-- Settles O42: what SP.PARSE has read fits, so SP.PACK completes, and the packet it builds
(`packetOf_parsed`) is the received one (`valid_of_parsed`) but for the PEC. -/
theorem spParsePackRoundTrip : Obligations.SpParsePackRoundTrip := by
  intro s t hparse hcode
  obtain ⟨hnone, hroom⟩ := splits_of_exec_spParse hparse hcode
  obtain ⟨hpktLen, hcap, hdl⟩ := lengths_of_frameError hnone
  obtain ⟨hparsed, ⟨hdata, hdataLen, -⟩, hregs, -, hparams, -⟩ := reads_of_exec_spParse hparse hcode
  have hpec : t.regs.hasPec = s.regs.hasPec := hregs .hasPec (by decide)
  have hpl : (payload s).length = payloadLen s := State.length_slice ..
  have hdeclared := declared_lt s
  have hlen : LengthFits t t.regs.datLen.toNat := by
    rw [hdataLen, hpl, LengthFits, pecLen_congr hpec, hparams, hdataLen, hpl]
    omega
  have hu := holdsPacket_packSp hlen 0x3100
  have hvalid := hu.valid
  rw [hdata, packetOf_parsed hparsed hpec hdl] at hvalid
  refine ⟨_, exec_spPack_completes (spMask_eq_zero_iff.2 ⟨hparsed.headerFits, hlen⟩), errorCode_complete _ _,
    BitVec.eq_of_toNat_eq ?length, fun k hk => ?body, ?pec⟩
  case length => rw [hu.pktLen_eq, hdata, hpl, pecLen_congr hpec, hpktLen]
  case body =>
    have hbody : (t.packSp.complete 0x3100).slice .pkt 0 (6 + payloadLen s) = bodyOf s := by
      rw [State.slice_of_valid hvalid (by rw [List.length_append, length_bodyOf]; omega), List.drop_zero,
        List.take_left' (length_bodyOf s)]
    have hbyte := State.byteAt_of_slice hbody hk
    rwa [Nat.zero_add] at hbyte
  case pec =>
    rw [hvalid, valid_of_parsed hparsed hpktLen, List.append_cancel_left_eq, ← pec_iff]
    by_cases h : s.regs.pec = true
    · rw [if_pos h, if_pos h, pecBytes_inj]
      exact ⟨fun heq _ => heq.symm, fun heq => (heq h).symm⟩
    · rw [if_neg h, if_neg h]
      exact ⟨fun _ hset => absurd hset h, fun _ => rfl⟩

end Sys2Proof.Machine
end

section
/-! PROOFS. TC.ACK and TC.REQID (43_pus_tc.md R183, R186). -/

namespace Sys2Proof.Machine

variable {s : State}

/-! ### TC.ACK (43_pus_tc.md R183) -/

/-- TC.ACK's word: opcode 0x43, the bits 7:4 that must be 0, the mask (30_encoding.md R84). -/
theorem encode_tcAck : ∀ m : BitVec 4, encode (.tcAck m) = 0x43#8 ++ 0#4 ++ m := by decide

/-- Bits of ACK above bit 3 meet no bit of a mask. -/
theorem and_ackMask_eq_zero_iff (ack : BitVec 32) (m : BitVec 4) :
    ack &&& m.setWidth 32 = 0 ↔ ack.toNat &&& m.toNat = 0 := by
  rw [← BitVec.toNat_inj, BitVec.toNat_and, BitVec.toNat_setWidth_of_le (by decide)]
  rfl

theorem exec_tcAck (m : BitVec 4) (s : State) :
    exec (.tcAck m) s =
      .next ((s.withResult (s.regs.ack &&& m.setWidth 32 != 0)).complete (0x43#8 ++ 0#4 ++ m)) := by
  rw [← encode_tcAck]
  rfl

/-- Settles O47: RESULT is the test of R183, on the registers' bits (`and_ackMask_eq_zero_iff`). -/
theorem tcAckResult : Obligations.TcAckResult := by
  intro s m _
  refine ⟨_, exec_tcAck m s, fun hset => ?set, fun hclear => ?clear, completed_complete _ _,
    (keeps_withResult s _).complete _⟩
  case set => exact if_pos (bne_iff_ne.2 (mt (and_ackMask_eq_zero_iff _ m).1 hset))
  case clear => exact if_neg fun h => bne_iff_ne.1 h ((and_ackMask_eq_zero_iff _ m).2 hclear)

/-! ### TC.REQID (43_pus_tc.md R186) -/

theorem hdrChecks_shows (s : State) (pl : Nat) :
    ShowsChecks (hdrChecks true s.regs) [0, 1, 2, 3, 4, 5] s pl false := by
  apply shows_of_low
  · intro k hk
    interval_cases k <;> simp [hdrChecks, getElem_flagBit, checkFails]
  · intro k hk
    have hne : ∀ j, j < 27 → k ≠ j := fun j hj => by omega
    simp [hdrChecks, getLsbD_flagBit, hne]

theorem hdrChecks_eq_zero_iff : hdrChecks true s.regs = 0 ↔ HeaderFits true s.regs := by
  rw [mask_zero_iff (hdrChecks_shows s 0)]
  simp only [List.forall_mem_cons, checkFails, HeaderFits, List.not_mem_nil, false_imp_iff,
    implies_true, and_true, true_imp_iff]
  omega

/-- The request identifier of the header registers (43_pus_tc.md R186). -/
def Regs.requestId (r : Regs) : BitVec 32 :=
  packetId (r.ver.setWidth 3) (r.ptype.setWidth 1) (r.shf.setWidth 1) (r.apid.setWidth 11)
    (r.seqf.setWidth 2) (r.seqc.setWidth 14)

theorem toNat_requestId {r : Regs} (hfits : HeaderFits true r) :
    r.requestId.toNat =
      r.ver.toNat * 2 ^ 29 + r.ptype.toNat * 2 ^ 28 + r.shf.toNat * 2 ^ 27 + r.apid.toNat * 2 ^ 16
        + r.seqf.toNat * 2 ^ 14 + r.seqc.toNat := by
  obtain ⟨hver, htypes, hapid, hseqf, hseqc⟩ := hfits
  obtain ⟨htyp, hshf⟩ := htypes rfl
  simp only [Regs.requestId, packetId, toNat_append_eq_mul_add, BitVec.toNat_setWidth]
  omega

/-- What TC.REQID commits. -/
def State.putRequestId (s : State) : State :=
  { s.withVfail 0 with regs := { (s.withVfail 0).regs with reqid := s.regs.requestId } }

theorem keeps_putRequestId (s : State) : Keeps [.vfail, .reqid] [] s s.putRequestId :=
  (Keeps.refl _ _ s).extend (keeps_withVfail s 0) (by decide) (by decide)
    |>.extend (keeps_set _ .reqid _) (by decide) (by decide)

theorem exec_tcReqid_completes (h : hdrChecks true s.regs = 0) :
    exec .tcReqid s = .next (s.putRequestId.complete 0x4400) := by
  show execTcReqid s = _
  simp only [execTcReqid, h, ne_eq, not_true_eq_false, if_false, finish_ok]
  rfl

theorem exec_tcReqid_refuses (h : hdrChecks true s.regs ≠ 0) :
    exec .tcReqid s =
      .next ((s.withVfail (hdrChecks true s.regs)).raise 0x4400 (.range (hdrChecks true s.regs))) := by
  show execTcReqid s = _
  simp only [execTcReqid, if_pos h, finish_error]
  rfl

/-- Settles O48: the mask is 0 exactly when the header fits (`hdrChecks_eq_zero_iff`), and then the fields
stand side by side in the identifier. -/
theorem tcReqidResult : Obligations.TcReqidResult := by
  intro s
  refine ⟨fun hfits => ?completes, fun hfits => ?refuses⟩
  case completes =>
    exact ⟨_, exec_tcReqid_completes (hdrChecks_eq_zero_iff.2 hfits), toNat_requestId hfits, rfl,
      completed_complete _ _, (keeps_putRequestId s).complete _⟩
  case refuses =>
    exact ⟨_, _, exec_tcReqid_refuses (mt hdrChecks_eq_zero_iff.1 hfits), hdrChecks_shows s 0,
      raisesWithMask_range _ _ s⟩

end Sys2Proof.Machine
end

section
/-! PROOFS. TC.PACK (43_pus_tc.md R172, R175). -/

namespace Sys2Proof.Machine

variable {s t : State}

/-! ### The checks of TC.PACK (45_validators.md R217) -/

theorem not_someRequiredFails_tc_iff {pl : Nat} {pf : Bool} :
    ¬SomeRequiredFails tcCheckList s pl pf ↔
      HeaderFits false s.regs ∧ TcFits s.regs ∧ LengthFits s pl := by
  have hall : ¬SomeRequiredFails tcCheckList s pl pf ↔
      ∀ k ∈ tcCheckList, k ≤ 23 → ¬checkFails s pl pf k := by
    simp only [SomeRequiredFails, not_exists, not_and]
  rw [hall]
  simp only [tcCheckList, List.forall_mem_cons, checkFails, HeaderFits, TcFits, OptFits, LengthFits,
    List.not_mem_nil, false_imp_iff, implies_true, and_true, true_and, true_imp_iff, Nat.reduceLeDiff,
    Bool.false_eq_true]
  omega

theorem tcPayloadLen_of_fits {r : Regs} (h : TcFits r) :
    tcPayloadLen r = 3 + r.tcSrcW.toNat + r.datLen.toNat := by
  obtain ⟨-, -, -, -, hw, -⟩ := h
  rw [tcPayloadLen, legalWidth, if_pos hw]

/-- TC.PACK raises nothing exactly when header, secondary header and length fit. -/
theorem packRaise_tcMask_eq_none_iff :
    packRaise s (tcMask s) = none ↔
      HeaderFits false s.regs ∧ TcFits s.regs
        ∧ LengthFits s (3 + s.regs.tcSrcW.toNat + s.regs.datLen.toNat) := by
  rw [packRaise_eq_none_iff (tcMask_shows s), not_someRequiredFails_tc_iff]
  refine and_congr_right fun _ => and_congr_right fun hfits => ?_
  rw [tcPayloadLen_of_fits hfits]

theorem pusvAdvisory_eq (v : BitVec 32) :
    pusvAdvisory v.toNat = if v = 1 ∨ v = 2 then 0 else 0x01000000 := by
  split
  · next h => rcases h with rfl | rfl <;> rfl
  · next h =>
    rw [not_or] at h
    obtain ⟨h1, h2⟩ := h
    have hfinding : (v.toNat != 1 && v.toNat != 2) = true := by
      rw [Bool.and_eq_true, bne_iff_ne, bne_iff_ne]
      exact ⟨fun h => h1 (BitVec.eq_of_toNat_eq h), fun h => h2 (BitVec.eq_of_toNat_eq h)⟩
    rw [pusvAdvisory, hfinding]
    rfl

/-- Where no required check fails, the PUS version's finding is all there is (45_validators.md R214). -/
theorem eq_pusvAdvisory_of_packRaise {m : Mask} {ks : List Nat} {pl : Nat} {pf : Bool}
    (hs : ShowsChecks m ks s pl pf) (h24 : 24 ∈ ks) (hks : ∀ k ∈ ks, k ≤ 24)
    (hnone : packRaise s m = none) : m = pusvAdvisory s.regs.pusv.toNat := by
  refine BitVec.eq_of_getLsbD_eq fun k _ => Bool.eq_iff_iff.2 ?_
  rw [hs k, pusvAdvisory, getLsbD_flagBit _ _ _ (by decide), Bool.and_eq_true, Bool.and_eq_true,
    bne_iff_ne, bne_iff_ne, decide_eq_true_eq]
  refine ⟨fun ⟨hk, hfails⟩ => ?_, fun ⟨hfinding, hk⟩ => hk ▸ ⟨h24, hfinding⟩⟩
  have hrequired : ¬k ≤ 23 := fun h23 => not_checkFails_of_packRaise hs hnone hk h23 hfails
  obtain rfl : k = 24 := by have := hks k hk; omega
  exact ⟨hfails, rfl⟩

theorem tcMask_of_packRaise (h : packRaise s (tcMask s) = none) :
    tcMask s = if s.regs.pusv = 1 ∨ s.regs.pusv = 2 then 0 else 0x01000000 :=
  (eq_pusvAdvisory_of_packRaise (tcMask_shows s) (by decide) (by decide) h).trans
    (pusvAdvisory_eq s.regs.pusv)

/-! ### The payload (43_pus_tc.md R172) -/

/-- The checks have shown that every value fits its field, so the fields hold the registers' values. -/
theorem tcPayload_eq_tcBytes (h : TcFits s.regs) : tcPayload s = tcBytes s := by
  obtain ⟨hpusv, hack, hsvc, hsub, -⟩ := h
  have hfixed : [s.regs.pusv.setWidth 4 ++ s.regs.ack.setWidth 4, s.regs.svc.setWidth 8,
      s.regs.sub.setWidth 8] =
      sechdrBytes s.regs.pusv.toNat s.regs.ack.toNat s.regs.svc.toNat s.regs.sub.toNat := by
    simp only [sechdrBytes, List.map_cons, List.map_nil, List.cons.injEq, ← BitVec.toNat_inj,
      toNat_append_eq_mul_add, BitVec.toNat_setWidth, BitVec.toNat_ofNat, and_true]
    omega
  rw [tcPayload, tcSechdr, optField, hfixed, tcBytes]

theorem length_tcBytes (s : State) :
    (tcBytes s).length = 3 + s.regs.tcSrcW.toNat + s.regs.datLen.toNat := by
  rw [tcBytes, List.length_append, List.length_append, length_be, State.length_valid]
  rfl

/-! ### TC.PACK (43_pus_tc.md R175) -/

/-- What TC.PACK commits: the packet of the registers and DAT, with TYPE and SHF forced to 1. -/
def State.packTc (s : State) : State :=
  ((s.withVfail (tcMask s)).putPacket 1 1 (tcPayload s)).withTypeFlag 1 1

theorem keeps_packTc (s : State) : Keeps [.vfail, .pktLen, .dlen, .ptype, .shf] [.pkt] s s.packTc :=
  (Keeps.refl _ _ s).extend (keeps_withVfail s _) (by decide) (by decide)
    |>.extend (keeps_putPacket _ _ _ _) (by decide) (by decide)
    |>.extend (keeps_withTypeFlag _ _ _) (by decide) (by decide)

theorem exec_tcPack_completes (h : packRaise s (tcMask s) = none) :
    exec .tcPack s = .next (s.packTc.complete 0x4100) := by
  show execTcPack s = _
  simp only [execTcPack, h, finish_ok]
  rfl

theorem exec_tcPack_refuses {e : Err} (he : packRaise s (tcMask s) = some e) :
    exec .tcPack s = .next ((s.withVfail (tcMask s)).raise 0x4100 e) := by
  show execTcPack s = _
  simp only [execTcPack, he, finish_error]
  rfl

theorem State.valid_withTypeFlag (s : State) (typ shf : BitVec 1) (b : BufSel) :
    (s.withTypeFlag typ shf).valid b = s.valid b := by
  have hlen : (s.withTypeFlag typ shf).lengthOf b = s.lengthOf b := by cases b <;> rfl
  rw [State.valid, hlen]
  exact State.slice_congr fun k _ _ => State.byteAt_withTypeFlag s typ shf b k

/-- TYPE and SHF are no part of the packet in PKT. -/
theorem PacketBuilt.withTypeFlag {typ shf : Nat} {p : Bytes} (h : PacketBuilt s t typ shf p)
    (y f : BitVec 1) : PacketBuilt s (t.withTypeFlag y f) typ shf p := by
  obtain ⟨hvalid, hpktLen, hdlen, hbeyond⟩ := h
  exact ⟨(t.valid_withTypeFlag y f .pkt).trans hvalid, hpktLen, hdlen, hbeyond⟩

theorem packetBuilt_packTc (hfits : HeaderFits false s.regs) (htc : TcFits s.regs)
    (hlen : LengthFits s (3 + s.regs.tcSrcW.toNat + s.regs.datLen.toNat)) :
    PacketBuilt s s.packTc 1 1 (tcBytes s) := by
  obtain ⟨hmin, hmax, -⟩ := hlen
  rw [← length_tcBytes] at hmin hmax
  rw [State.packTc, tcPayload_eq_tcBytes htc]
  exact PacketBuilt.withTypeFlag
    (packetBuilt_putPacket (s := s.withVfail (tcMask s)) hfits 1 1 hmin hmax) 1 1

/-- Settles O44: TC.PACK builds the packet when `pack_raise` returns, with the PUS version's finding in VFAIL
(`tcMask_of_packRaise`), and otherwise raises what it tells (`packRefuses_of_exec`). -/
theorem tcPackResult : Obligations.TcPackResult := by
  intro s
  refine ⟨fun hfits htc hlen => ?completes, ?refuses, rfl⟩
  case completes =>
    have hnone := packRaise_tcMask_eq_none_iff.2 ⟨hfits, htc, hlen⟩
    exact ⟨_, exec_tcPack_completes hnone, (packetBuilt_packTc hfits htc hlen).complete _, rfl, rfl,
      tcMask_of_packRaise hnone, completed_complete _ _, (keeps_packTc s).complete _⟩
  case refuses =>
    exact packRefuses_of_exec (tcMask_shows s) (by decide) fun _ he => exec_tcPack_refuses he

end Sys2Proof.Machine
end

section
/-! PROOFS. TC.PARSE (43_pus_tc.md R178). -/

namespace Sys2Proof.Machine

variable {s t : State} {f : Frame}

/-! ### The advisory findings (45_validators.md R211, R214) -/

theorem getLsbD_parseAdvisory (pusv : BitVec 4) (want typ shf : BitVec 1) (k : Nat) :
    (parseAdvisory pusv want typ shf).getLsbD k = true ↔
      (k = 24 ∧ pusv.toNat ≠ 1 ∧ pusv.toNat ≠ 2) ∨ (k = 25 ∧ typ ≠ want) ∨ (k = 26 ∧ shf ≠ 1) := by
  simp only [parseAdvisory, pusvAdvisory, BitVec.getLsbD_or, Bool.or_eq_true,
    getLsbD_flagBit _ _ _ (show 24 < 32 by decide), getLsbD_flagBit _ _ _ (show 25 < 32 by decide),
    getLsbD_flagBit _ _ _ (show 26 < 32 by decide), Bool.and_eq_true, bne_iff_ne, decide_eq_true_eq]
  tauto

/-- VFAIL holds the findings of the fields that the registers hold. -/
theorem advisoryIs_of_parseAdvisory {pusv : BitVec 4} {want typ shf : BitVec 1}
    (hvfail : t.regs.vfail = parseAdvisory pusv want typ shf) (hpusv : t.regs.pusv.toNat = pusv.toNat)
    (htyp : t.regs.ptype.toNat = typ.toNat) (hshf : t.regs.shf.toNat = shf.toNat) :
    AdvisoryIs t want.toNat := by
  have hone : shf ≠ 1 ↔ shf.toNat = 0 := by
    rw [ne_eq, ← BitVec.toNat_inj]
    have := shf.isLt
    show ¬shf.toNat = 1 ↔ _
    omega
  intro k
  rw [hvfail, getLsbD_parseAdvisory, hpusv, htyp, hshf, hone, ne_eq typ, ← BitVec.toNat_inj]

/-! ### What TC.PARSE commits -/

/-- What TC.PARSE commits of a frame. -/
def State.takeTc (s : State) (f : Frame) : State :=
  ({ s with regs := s.regs.putTc f s.regs.tcSrcW.toNat (s.slice .pkt 6 f.pl) }).put .dat
    ((s.slice .pkt 6 f.pl).drop (3 + s.regs.tcSrcW.toNat))

theorem keeps_takeTc (s : State) (f : Frame) :
    Keeps [.ver, .ptype, .shf, .apid, .seqf, .seqc, .dlen, .pecRx, .pusv, .ack, .svc, .sub, .src, .vfail,
      .datLen] [.dat] s (s.takeTc f) :=
  (Keeps.refl _ _ s).extend (keeps_putTc s f _ _) (by decide) (by decide)
    |>.extend (keeps_put _ .dat _) (by decide) (by decide)

theorem dataIs_takeTc (hpl : f.pl = payloadLen s) (hmax : payloadLen s ≤ 65536) :
    DataIs s (s.takeTc f) ((payload s).drop (3 + s.regs.tcSrcW.toNat)) := by
  have hlen : ((s.slice .pkt 6 f.pl).drop (3 + s.regs.tcSrcW.toNat)).length ≤ payloadLen s := by
    rw [List.length_drop, State.length_slice, hpl]
    exact Nat.sub_le _ _
  rw [payload, ← hpl]
  refine dataIs_of_put (fun k => ?_) (Nat.mod_eq_of_lt (by omega))
  exact State.byteAt_congr rfl rfl k

/-- The secondary header registers hold the fields of the payload (43_pus_tc.md R172, R178). -/
def TcHeaderParsed (s t : State) : Prop :=
  t.regs.pusv.toNat = octet (payload s) 0 / 16 ∧ t.regs.ack.toNat = octet (payload s) 0 % 16
    ∧ t.regs.svc.toNat = octet (payload s) 1 ∧ t.regs.sub.toNat = octet (payload s) 2
    ∧ t.regs.src.toNat = beVal (((payload s).drop 3).take s.regs.tcSrcW.toNat)

/-- The two halves of an octet. -/
theorem toNat_octet_halves (o : Byte) :
    (o.extractLsb' 4 4).toNat = o.toNat / 16 ∧ (o.extractLsb' 0 4).toNat = o.toNat % 16 := by
  have := o.isLt
  simp only [BitVec.extractLsb'_toNat, Nat.shiftRight_eq_div_pow]
  omega

theorem tcHeaderParsed_takeTc (hw : s.regs.tcSrcW.toNat ≤ 8) (hpl : f.pl = payloadLen s) :
    TcHeaderParsed s (s.takeTc f) := by
  have hp : s.slice .pkt 6 f.pl = payload s := by rw [hpl, payload]
  have widen {n : Nat} (x : BitVec n) (hn : n ≤ 32) : (x.setWidth 32).toNat = x.toNat :=
    BitVec.toNat_setWidth_of_le hn
  obtain ⟨hhigh, hlow⟩ := toNat_octet_halves ((payload s).getD 0 0)
  rw [TcHeaderParsed, State.takeTc, hp]
  exact ⟨(widen _ (by decide)).trans hhigh, (widen _ (by decide)).trans hlow, widen _ (by decide),
    widen _ (by decide), toNat_ofNat_beVal_take _ (by omega)⟩

theorem advisoryIs_takeTc (s : State) (f : Frame) : AdvisoryIs (s.takeTc f) 1 :=
  advisoryIs_of_parseAdvisory (want := 1) rfl (BitVec.toNat_setWidth_of_le (by decide))
    (BitVec.toNat_setWidth_of_le (by decide)) (BitVec.toNat_setWidth_of_le (by decide))

/-! ### How TC.PARSE ends (43_pus_tc.md R178) -/

theorem exec_tcParse_width (h : 8 < s.regs.tcSrcW.toNat) :
    exec .tcParse s = .next ((s.withVfail 0x1000).raise 0x4200 (.range 0x1000)) := by
  show execTcParse s = _
  simp only [execTcParse, if_pos h, finish_error]
  rfl

theorem exec_tcParse_refuses {e : Err} (hw : s.regs.tcSrcW.toNat ≤ 8) (he : frameSplit s = .error e) :
    exec .tcParse s = .next (s.raise 0x4200 e) := by
  show execTcParse s = _
  simp only [execTcParse, if_neg (Nat.not_lt.2 hw), he, finish_error]
  rfl

/-- The tests behind the split of the frame, in their order. -/
theorem exec_tcParse_of_split (hw : s.regs.tcSrcW.toNat ≤ 8) (hf : frameSplit s = .ok f) :
    exec .tcParse s =
      finish 0x4200 s
        (if f.pl < 3 then .error (.malformed .sechdr)
         else if f.pl < 3 + s.regs.tcSrcW.toNat then .error (.malformed .opt)
         else if s.capacity .dat < f.pl - 3 - s.regs.tcSrcW.toNat then .error (.capacity .dat)
         else .ok (s.takeTc f)) := by
  show execTcParse s = _
  simp only [execTcParse, if_neg (Nat.not_lt.2 hw), hf]
  rfl

theorem tcParseError_of_error {code info : Nat} (h : frameError s = some (code, info)) :
    tcParseError s = some (code, info) := by
  rw [tcParseError, h]
  rfl

theorem tcParseError_of_split (h : frameError s = none) :
    tcParseError s =
      if payloadLen s < 3 then some (1, 4)
      else if payloadLen s < 3 + s.regs.tcSrcW.toNat then some (1, 5)
      else if s.params.datCap < payloadLen s - 3 - s.regs.tcSrcW.toNat then some (8, 1)
      else none := by
  rw [tcParseError, h]
  rfl

/-- Everything TC.PARSE can do with a legal width: it raises the first error, or it reads the frame. -/
theorem exec_tcParse_cases (hw : s.regs.tcSrcW.toNat ≤ 8) :
    (∃ f, frameSplit s = .ok f ∧ tcParseError s = none ∧ f.pl = payloadLen s ∧ payloadLen s ≤ 65536
        ∧ exec .tcParse s = .next ((s.takeTc f).complete 0x4200))
      ∨ (∃ e, tcParseError s = some (e.code, e.info.toNat)
          ∧ exec .tcParse s = .next (s.raise 0x4200 e)) := by
  rcases frameSplit_cases s with ⟨f, hf, hnone, -, hpl, -, -, -, -, hmax, -⟩ | ⟨e, he, herr⟩
  case inr => exact .inr ⟨e, tcParseError_of_error herr, exec_tcParse_refuses hw he⟩
  rw [tcParseError_of_split hnone, exec_tcParse_of_split hw hf, hpl, State.capacity]
  by_cases hsechdr : payloadLen s < 3
  · exact .inr ⟨.malformed .sechdr, by rw [if_pos hsechdr]; rfl, by rw [if_pos hsechdr, finish_error]⟩
  rw [if_neg hsechdr, if_neg hsechdr]
  by_cases hopt : payloadLen s < 3 + s.regs.tcSrcW.toNat
  · exact .inr ⟨.malformed .opt, by rw [if_pos hopt]; rfl, by rw [if_pos hopt, finish_error]⟩
  rw [if_neg hopt, if_neg hopt]
  by_cases hcap : s.params.datCap < payloadLen s - 3 - s.regs.tcSrcW.toNat
  · exact .inr ⟨.capacity .dat, by rw [if_pos hcap]; rfl, by rw [if_pos hcap, finish_error]⟩
  · exact .inl ⟨f, hf, if_neg hcap, hpl, hmax, by rw [if_neg hcap, finish_ok]⟩

/-- Settles O45, by the width check and what TC.PARSE can do behind it (`exec_tcParse_cases`). -/
theorem tcParseResult : Obligations.TcParseResult := by
  intro s
  refine ⟨fun hw => ?width, fun code info hw herr => ?refuses, fun hw hnone => ?completes⟩
  case width => exact ⟨_, exec_tcParse_width hw, raisesWithMask_range _ _ s⟩
  case refuses =>
    rcases exec_tcParse_cases hw with ⟨f, -, hnone, -⟩ | ⟨e, he, hexec⟩
    · cases hnone.symm.trans herr
    · cases he.symm.trans herr
      exact ⟨_, hexec, raisesPlainly_raise _ e s⟩
  case completes =>
    rcases exec_tcParse_cases hw with ⟨f, hf, -, hpl, hmax, hexec⟩ | ⟨e, he, -⟩
    · obtain ⟨hpusv, hack, hsvc, hsub, hsrc⟩ := tcHeaderParsed_takeTc hw hpl
      refine ⟨_, hexec, frameParsed_of_putFrame hf fun r hr => ?frame, hpusv, hack, hsvc, hsub, hsrc,
        (dataIs_takeTc hpl hmax).complete _, advisoryIs_takeTc s f, completed_complete _ _, ?keeps⟩
      case frame => cases r <;> first | rfl | simp at hr
      case keeps =>
        exact (Keeps.refl _ _ s).extend (keeps_takeTc s f) (by decide) (by decide)
          |>.extend (keeps_complete _ _) (by decide) (by decide)
    · cases hnone.symm.trans he

end Sys2Proof.Machine
end

section
/-! PROOFS. TC.PACK, then TC.PARSE (43_pus_tc.md R188). -/

namespace Sys2Proof.Machine

variable {s t u : State}

/-! ### The fields of a payload (43_pus_tc.md R172) -/

/-- The parts of a payload behind its three fixed octets. -/
theorem drop_tcBytes (s : State) :
    (tcBytes s).drop 3 = be s.regs.tcSrcW.toNat s.regs.src.toNat ++ s.valid .dat := by
  rw [tcBytes, List.append_assoc]
  rfl

theorem srcField_tcBytes (s : State) :
    ((tcBytes s).drop 3).take s.regs.tcSrcW.toNat = be s.regs.tcSrcW.toNat s.regs.src.toNat := by
  rw [drop_tcBytes, List.take_left' (length_be _ _)]

theorem data_tcBytes (s : State) : (tcBytes s).drop (3 + s.regs.tcSrcW.toNat) = s.valid .dat := by
  rw [← List.drop_drop, drop_tcBytes, List.drop_left' (length_be _ _)]

/-- The fixed octets give back the values that fit them. -/
theorem octets_tcBytes (h : TcFits s.regs) :
    octet (tcBytes s) 0 / 16 = s.regs.pusv.toNat ∧ octet (tcBytes s) 0 % 16 = s.regs.ack.toNat
      ∧ octet (tcBytes s) 1 = s.regs.svc.toNat ∧ octet (tcBytes s) 2 = s.regs.sub.toNat := by
  obtain ⟨hpusv, hack, hsvc, hsub, -⟩ := h
  have h0 : octet (tcBytes s) 0 = (s.regs.pusv.toNat * 16 + s.regs.ack.toNat) % 256 :=
    BitVec.toNat_ofNat ..
  have h1 : octet (tcBytes s) 1 = s.regs.svc.toNat % 256 := BitVec.toNat_ofNat ..
  have h2 : octet (tcBytes s) 2 = s.regs.sub.toNat % 256 := BitVec.toNat_ofNat ..
  omega

/-- A source value that fits its field is read back, and 0 when there is no field. -/
theorem beVal_srcField (h : TcFits s.regs) :
    beVal (be s.regs.tcSrcW.toNat s.regs.src.toNat) =
      (if s.regs.tcSrcW = 0 then 0 else s.regs.src).toNat := by
  obtain ⟨-, -, -, -, -, hsrc⟩ := h
  split
  · next hzero => rw [hzero]; rfl
  · next hne =>
    have hpos : 1 ≤ s.regs.tcSrcW.toNat := Nat.one_le_iff_ne_zero.2 fun h => hne (BitVec.eq_of_toNat_eq h)
    exact beVal_be_of_lt (hsrc hpos)

/-! ### The packet that TC.PACK leaves -/

/-- TC.PACK completes only when `pack_raise` returns. -/
theorem packRaise_of_exec_tcPack (h : exec .tcPack s = .next t) (hcode : errorCode t = 0) :
    packRaise s (tcMask s) = none := by
  cases he : packRaise s (tcMask s) with
  | none => rfl
  | some e =>
    cases (exec_tcPack_refuses he).symm.trans h
    rw [errorCode_raise] at hcode
    have := e.code_pos
    omega

theorem holdsPacket_packTc (htc : TcFits s.regs)
    (hlen : LengthFits s (3 + s.regs.tcSrcW.toNat + s.regs.datLen.toNat)) (w : CmdWord) :
    HoldsPacket s.regs 1 1 (tcBytes s) (s.packTc.complete w) := by
  obtain ⟨hmin, hmax, -, hcap⟩ := hlen
  rw [← length_tcBytes] at hmin hmax hcap
  rw [State.packTc, tcPayload_eq_tcBytes htc]
  refine ⟨hmin, hmax, ?valid, rfl, ?within⟩
  case valid =>
    rw [State.valid_complete, State.valid_withTypeFlag]
    exact valid_putPacket (s := s.withVfail (tcMask s)) hmax 1 1
  case within =>
    have hpktLen := toNat_pktLen_putPacket (s := s.withVfail (tcMask s)) hmax 1 1
    exact (hpktLen.trans (Nat.add_assoc _ _ _)).trans_le hcap

/-- A packet of TC.PACK parses with the same TC_SRC_W where DAT holds the data it was built from. -/
theorem tcParseError_of_holdsPacket (hu : HoldsPacket s.regs 1 1 (tcBytes s) u)
    (hw : u.regs.tcSrcW = s.regs.tcSrcW) (hroom : s.regs.datLen.toNat ≤ u.params.datCap) :
    tcParseError u = none := by
  have hlen := length_tcBytes s
  rw [tcParseError_of_split hu.frameError_eq_none, hu.payloadLen_eq, hw, if_neg (by omega),
    if_neg (by omega), if_neg (by omega)]

/-- Settles O46: TC.PACK that completes leaves the packet in PKT (`holdsPacket_packTc`), whose frame splits
into the header and the payload it was built from, and TC.PARSE reads it (`tcParseResult`). -/
theorem tcRoundTrip : Obligations.TcRoundTrip := by
  intro s t u hpack hcode hsame hw
  have hnone := packRaise_of_exec_tcPack hpack hcode
  obtain ⟨hfits, htc, hlen⟩ := packRaise_tcMask_eq_none_iff.1 hnone
  cases (exec_tcPack_completes hnone).symm.trans hpack
  have hu := (holdsPacket_packTc htc hlen 0x4100).of_samePacket hsame
  have hroom : s.regs.datLen.toNat ≤ u.params.datCap := by
    obtain ⟨hparams, -⟩ := hsame
    obtain ⟨-, -, hdat, -⟩ := hlen
    rw [hparams]
    exact hdat
  have hwidth : u.regs.tcSrcW.toNat ≤ 8 := by
    obtain ⟨-, -, -, -, hw8, -⟩ := htc
    rwa [hw]
  obtain ⟨-, -, hcompletes⟩ := tcParseResult u
  obtain ⟨v, hv, hparsed, hpusv, hack, hsvc, hsub, hsrc, ⟨hdata, hdataLen, -⟩, -, hcompleted, -⟩ :=
    hcompletes hwidth (tcParseError_of_holdsPacket hu hw hroom)
  rw [hu.payload_eq] at hpusv hack hsvc hsub hsrc hdata hdataLen
  rw [hw, data_tcBytes] at hdata hdataLen
  rw [hw, srcField_tcBytes, beVal_srcField htc] at hsrc
  obtain ⟨opusv, oack, osvc, osub⟩ := octets_tcBytes htc
  obtain ⟨htyp, hshf⟩ := hu.types_eq hparsed
  refine ⟨v, hv, errorCode_of_completed hcompleted, ?agree, BitVec.eq_of_toNat_eq htyp,
    BitVec.eq_of_toNat_eq hshf, ?dlen, BitVec.eq_of_toNat_eq hsrc, hdata⟩
  case agree =>
    have hheader := hu.agree hfits hparsed
    simp only [Agree, List.forall_mem_cons] at hheader ⊢
    obtain ⟨hver, hapid, hseqf, hseqc, -⟩ := hheader
    exact ⟨hver, hapid, hseqf, hseqc, BitVec.eq_of_toNat_eq (hpusv.trans opusv),
      BitVec.eq_of_toNat_eq (hack.trans oack), BitVec.eq_of_toNat_eq (hsvc.trans osvc),
      BitVec.eq_of_toNat_eq (hsub.trans osub),
      BitVec.eq_of_toNat_eq (hdataLen.trans (State.length_valid s .dat)), fun _ hr => by cases hr⟩
  case dlen =>
    rw [hu.dlen_eq hparsed, ← tcPayload_eq_tcBytes htc]
    rfl

end Sys2Proof.Machine
end

section
/-! PROOFS. TM.PACK (44_pus_tm.md R191, R194). -/

namespace Sys2Proof.Machine

variable {s t : State}

/-! ### The checks of TM.PACK (45_validators.md R218) -/

theorem cucChecks_pass_iff {pl : Nat} {pf : Bool} :
    (∀ k ∈ cucCheckList, ¬checkFails s pl pf k) ↔ TimeFits pf s.regs :=
  (mask_zero_iff (timeChecks_shows s pl pf)).symm.trans timeChecks_eq_zero_iff

/-- The required checks of TM.PACK that do not look at the time registers (45_validators.md R211). -/
def tmPacketChecks : List Nat := [0, 3, 4, 5, 6, 7, 9, 10, 11, 14, 15, 16, 17, 22]

theorem tmPacketChecks_pass_iff {pl : Nat} {pf : Bool} :
    (∀ k ∈ tmPacketChecks, ¬checkFails s pl pf k) ↔
      HeaderFits false s.regs ∧ TmFits s.regs ∧ LengthFits s pl := by
  simp only [tmPacketChecks, List.forall_mem_cons, checkFails, HeaderFits, TmFits, OptFits, LengthFits,
    List.not_mem_nil, false_imp_iff, implies_true, and_true, true_and, Bool.false_eq_true]
  omega

/-- The required checks of TM.PACK are those of the packet and those of the time. -/
theorem mem_tmCheckList_iff {k : Nat} :
    k ∈ tmCheckList ∧ k ≤ 23 ↔ k ∈ tmPacketChecks ∨ k ∈ cucCheckList := by
  simp only [tmCheckList, tmPacketChecks, cucCheckList, List.mem_cons, List.not_mem_nil, or_false]
  omega

theorem not_someRequiredFails_tm_iff {pl : Nat} {pf : Bool} :
    ¬SomeRequiredFails tmCheckList s pl pf ↔
      HeaderFits false s.regs ∧ TmFits s.regs ∧ TimeFits pf s.regs ∧ LengthFits s pl := by
  have hall : ¬SomeRequiredFails tmCheckList s pl pf ↔
      (∀ k ∈ tmPacketChecks, ¬checkFails s pl pf k) ∧ ∀ k ∈ cucCheckList, ¬checkFails s pl pf k := by
    simp only [SomeRequiredFails, ← and_assoc, mem_tmCheckList_iff, or_and_right, exists_or, not_or,
      not_exists, not_and]
  rw [hall, tmPacketChecks_pass_iff, cucChecks_pass_iff]
  tauto

/-! ### The payload (44_pus_tm.md R191) -/

/-- The three fixed octets of a secondary header, where the low half of the first holds its value. -/
theorem fixedOctets_eq_sechdrBytes {low : BitVec 32} (hlow : low.toNat ≤ 15) (pusv svc sub : BitVec 32) :
    [pusv.setWidth 4 ++ low.setWidth 4, svc.setWidth 8, sub.setWidth 8] =
      sechdrBytes pusv.toNat low.toNat svc.toNat sub.toNat := by
  simp only [sechdrBytes, List.map_cons, List.map_nil, List.cons.injEq, ← BitVec.toNat_inj,
    toNat_append_eq_mul_add, BitVec.toNat_setWidth, BitVec.toNat_ofNat, and_true]
  omega

theorem tmPayload_eq_tmBytes (htm : TmFits s.regs) (htime : TimeFits s.regs.hasP s.regs) :
    tmPayload s = tmBytes s := by
  obtain ⟨-, hstat, -⟩ := htm
  rw [tmPayload, tmSechdr, optField, optField, fixedOctets_eq_sechdrBytes hstat,
    timeField_eq_timeBytes htime, tmBytes]

theorem length_tmBytes (s : State) :
    (tmBytes s).length = tmTimeOffset s + (timeBytes s.regs).length + s.regs.datLen.toNat := by
  simp only [tmBytes, List.length_append, length_be, State.length_valid, State.lengthOf]
  rfl

theorem tmPayloadLen_of_fits (htm : TmFits s.regs) (htime : TimeFits s.regs.hasP s.regs) :
    tmPayloadLen s.regs = (tmBytes s).length := by
  rw [← tmPayload_eq_tmBytes htm htime]
  obtain ⟨-, -, -, -, ⟨hcnt, -⟩, hdst, -⟩ := htm
  obtain ⟨hfmt, -⟩ := htime
  exact (length_tmPayload hcnt hdst hfmt).symm

/-! ### What the checks let pass (44_pus_tm.md R194) -/

/-- TM.PACK raises nothing exactly when header, secondary header, time and length fit. -/
theorem packRaise_tmMask_eq_none_iff :
    packRaise s (tmMask s) = none ↔
      HeaderFits false s.regs ∧ TmFits s.regs ∧ TimeFits s.regs.hasP s.regs
        ∧ LengthFits s (tmBytes s).length := by
  rw [packRaise_eq_none_iff (tmMask_shows s), not_someRequiredFails_tm_iff, ← hasP_eq]
  refine and_congr_right fun _ => and_congr_right fun htm => and_congr_right fun htime => ?_
  rw [tmPayloadLen_of_fits htm htime]

theorem tmMask_of_packRaise (h : packRaise s (tmMask s) = none) :
    tmMask s = if s.regs.pusv = 1 ∨ s.regs.pusv = 2 then 0 else 0x01000000 :=
  (eq_pusvAdvisory_of_packRaise (tmMask_shows s) (by decide) (by decide) h).trans
    (pusvAdvisory_eq s.regs.pusv)

/-! ### TM.PACK (44_pus_tm.md R194) -/

/-- What TM.PACK commits: the packet of the registers and DAT, with TYPE forced to 0 and SHF to 1. -/
def State.packTm (s : State) : State :=
  ((s.withVfail (tmMask s)).putPacket 0 1 (tmPayload s)).withTypeFlag 0 1

theorem keeps_packTm (s : State) : Keeps [.vfail, .pktLen, .dlen, .ptype, .shf] [.pkt] s s.packTm :=
  (Keeps.refl _ _ s).extend (keeps_withVfail s _) (by decide) (by decide)
    |>.extend (keeps_putPacket _ _ _ _) (by decide) (by decide)
    |>.extend (keeps_withTypeFlag _ _ _) (by decide) (by decide)

theorem exec_tmPack_completes (h : packRaise s (tmMask s) = none) :
    exec .tmPack s = .next (s.packTm.complete 0x5100) := by
  show execTmPack s = _
  simp only [execTmPack, h, finish_ok]
  rfl

theorem exec_tmPack_refuses {e : Err} (he : packRaise s (tmMask s) = some e) :
    exec .tmPack s = .next ((s.withVfail (tmMask s)).raise 0x5100 e) := by
  show execTmPack s = _
  simp only [execTmPack, he, finish_error]
  rfl

theorem packetBuilt_packTm (hfits : HeaderFits false s.regs) (htm : TmFits s.regs)
    (htime : TimeFits s.regs.hasP s.regs) (hlen : LengthFits s (tmBytes s).length) :
    PacketBuilt s s.packTm 0 1 (tmBytes s) := by
  obtain ⟨hmin, hmax, -⟩ := hlen
  rw [State.packTm, tmPayload_eq_tmBytes htm htime]
  exact PacketBuilt.withTypeFlag
    (packetBuilt_putPacket (s := s.withVfail (tmMask s)) hfits 0 1 hmin hmax) 0 1

/-- Settles O50: TM.PACK builds the packet when `pack_raise` returns, with the PUS version's finding in VFAIL
(`tmMask_of_packRaise`), and otherwise raises what it tells (`packRefuses_of_exec`). -/
theorem tmPackResult : Obligations.TmPackResult := by
  intro s
  rw [← hasP_eq]
  refine ⟨fun hfits htm htime hlen => ?completes, ?refuses, rfl⟩
  case completes =>
    have hnone := packRaise_tmMask_eq_none_iff.2 ⟨hfits, htm, htime, hlen⟩
    exact ⟨_, exec_tmPack_completes hnone, (packetBuilt_packTm hfits htm htime hlen).complete _, rfl, rfl,
      tmMask_of_packRaise hnone, completed_complete _ _, (keeps_packTm s).complete _⟩
  case refuses =>
    rw [hasP_eq]
    exact packRefuses_of_exec (tmMask_shows s) (by decide) fun _ he => exec_tmPack_refuses he

end Sys2Proof.Machine
end

section
/-! PROOFS. TM.PARSE (44_pus_tm.md R191, R197). -/

namespace Sys2Proof.Machine

variable {s t : State} {f : Frame} {x : TimeField}

/-! ### The width checks (44_pus_tm.md R197) -/

theorem tmWidthMask_eq (r : Regs) :
    tmWidthMask r =
      BitVec.ofNat 32
        ((if 8 < r.tmCntW.toNat then 0x4000 else 0) + (if 8 < r.tmDstW.toNat then 0x10000 else 0)) := by
  simp only [tmWidthMask, flagBit, decide_eq_true_eq]
  split <;> split <;> rfl

theorem toNat_tmWidthMask (r : Regs) :
    (tmWidthMask r).toNat =
      (if 8 < r.tmCntW.toNat then 0x4000 else 0) + (if 8 < r.tmDstW.toNat then 0x10000 else 0) := by
  rw [tmWidthMask_eq, BitVec.toNat_ofNat]
  split <;> split <;> rfl

theorem tmWidthMask_eq_zero (hcnt : s.regs.tmCntW.toNat ≤ 8) (hdst : s.regs.tmDstW.toNat ≤ 8) :
    tmWidthMask s.regs = 0 := by
  rw [tmWidthMask_eq, if_neg (Nat.not_lt.2 hcnt), if_neg (Nat.not_lt.2 hdst)]
  rfl

theorem tmWidthMask_ne_zero (h : 8 < s.regs.tmCntW.toNat ∨ 8 < s.regs.tmDstW.toNat) :
    tmWidthMask s.regs ≠ 0 := by
  rw [tmWidthMask_eq]
  rcases h with h | h <;> rw [if_pos h] <;> split <;> decide

/-! ### What TM.PARSE commits -/

/-- What TM.PARSE commits of a frame and its time field. -/
def State.takeTm (s : State) (f : Frame) (x : TimeField) : State :=
  ({ s with regs := s.regs.putTm f s.regs.tmCntW.toNat s.regs.tmDstW.toNat (payload s) x }).put .dat
    ((tmTail s).drop x.used)

theorem keeps_takeTm (s : State) (f : Frame) (x : TimeField) :
    Keeps (frameRegs ++ [.pusv, .stat, .svc, .sub, .cnt, .dst, .cucBasic, .cucFrac, .cucTcid, .cucSec,
      .cucFrc, .cucUsed]) [.dat] s (s.takeTm f x) :=
  (Keeps.refl _ _ s).extend (keeps_putFrame s f) (by decide) (by decide)
    |>.extend (keeps_putTime _ x) (by decide) (by decide)
    |>.extend (keeps_regs _ [.pusv, .stat, .svc, .sub, .cnt, .dst, .vfail]) (by decide) (by decide)
    |>.extend (keeps_put _ .dat _) (by decide) (by decide)

/-- A frame and a time field are written to different registers. -/
theorem putTime_putFrame (r : Regs) (f : Frame) (x : TimeField) :
    (r.putFrame f).putTime x = (r.putTime x).putFrame f := by
  rw [Regs.putTime, Regs.putTime]
  cases x.tcid <;> rfl

theorem agree_putFrame_takeTm (s : State) (f : Frame) (x : TimeField) :
    Agree [.ver, .ptype, .shf, .apid, .seqf, .seqc, .dlen, .pecRx] { s with regs := s.regs.putFrame f }
      (s.takeTm f x) := by
  intro r hr
  rw [State.takeTm, Regs.putTm, putTime_putFrame]
  cases r <;> first | rfl | simp at hr

theorem agree_putTime_takeTm (s : State) (f : Frame) (x : TimeField) :
    Agree [.cucBasic, .cucFrac, .cucTcid, .cucSec, .cucFrc, .cucUsed]
      { s with regs := s.regs.putTime x } (s.takeTm f x) := by
  intro r hr
  rw [State.takeTm, Regs.putTm, putTime_putFrame]
  cases r <;> first | rfl | simp at hr

theorem Agree.complete {rs : List Reg} (h : Agree rs s t) (w : CmdWord)
    (hrs : ∀ r ∈ rs, r ∉ [Reg.cmd, .status, .errinfo] := by decide) : Agree rs s (t.complete w) := by
  obtain ⟨hkeeps, -⟩ := keeps_complete w t
  exact fun r hr => (hkeeps r (hrs r hr)).trans (h r hr)

/-- The secondary header registers hold the fields of the payload (44_pus_tm.md R191, R197). -/
def TmHeaderParsed (s t : State) : Prop :=
  t.regs.pusv.toNat = octet (payload s) 0 / 16 ∧ t.regs.stat.toNat = octet (payload s) 0 % 16
    ∧ t.regs.svc.toNat = octet (payload s) 1 ∧ t.regs.sub.toNat = octet (payload s) 2
    ∧ t.regs.cnt.toNat = beVal (((payload s).drop 3).take s.regs.tmCntW.toNat)
    ∧ t.regs.dst.toNat = beVal (((payload s).drop (3 + s.regs.tmCntW.toNat)).take s.regs.tmDstW.toNat)

theorem tmHeaderParsed_takeTm (hcnt : s.regs.tmCntW.toNat ≤ 8) (hdst : s.regs.tmDstW.toNat ≤ 8)
    (f : Frame) (x : TimeField) : TmHeaderParsed s (s.takeTm f x) := by
  have widen {n : Nat} (v : BitVec n) (hn : n ≤ 32) : (v.setWidth 32).toNat = v.toNat :=
    BitVec.toNat_setWidth_of_le hn
  obtain ⟨hhigh, hlow⟩ := toNat_octet_halves ((payload s).getD 0 0)
  exact ⟨(widen _ (by decide)).trans hhigh, (widen _ (by decide)).trans hlow, widen _ (by decide),
    widen _ (by decide), toNat_ofNat_beVal_take _ (by omega), toNat_ofNat_beVal_take _ (by omega)⟩

theorem advisoryIs_takeTm (s : State) (f : Frame) (x : TimeField) : AdvisoryIs (s.takeTm f x) 0 := by
  have htyp : (s.takeTm f x).regs.ptype = f.hdr.typ.setWidth 32 :=
    agree_putFrame_takeTm s f x .ptype (by decide)
  have hshf : (s.takeTm f x).regs.shf = f.hdr.shf.setWidth 32 :=
    agree_putFrame_takeTm s f x .shf (by decide)
  exact advisoryIs_of_parseAdvisory (want := 0) rfl (BitVec.toNat_setWidth_of_le (by decide))
    (by rw [htyp]; exact BitVec.toNat_setWidth_of_le (by decide))
    (by rw [hshf]; exact BitVec.toNat_setWidth_of_le (by decide))

theorem length_tmTail (s : State) : (tmTail s).length = payloadLen s - tmTimeOffset s := by
  rw [tmTail, List.length_drop, payload, State.length_slice]

theorem dataIs_takeTm (f : Frame) (x : TimeField) (hmax : payloadLen s ≤ 65536) :
    DataIs s (s.takeTm f x) ((tmTail s).drop x.used) := by
  have hlen : ((tmTail s).drop x.used).length ≤ payloadLen s := by
    rw [List.length_drop, length_tmTail]
    omega
  refine dataIs_of_put (fun k => ?_) (Nat.mod_eq_of_lt (by omega))
  exact State.byteAt_congr rfl rfl k

/-! ### How TM.PARSE ends (44_pus_tm.md R197) -/

theorem exec_tmParse_width (h : 8 < s.regs.tmCntW.toNat ∨ 8 < s.regs.tmDstW.toNat) :
    exec .tmParse s =
      .next ((s.withVfail (tmWidthMask s.regs)).raise 0x5200 (.range (tmWidthMask s.regs))) := by
  show execTmParse s = _
  simp only [execTmParse, if_pos (tmWidthMask_ne_zero h), finish_error]
  rfl

theorem exec_tmParse_refuses {e : Err} (hcnt : s.regs.tmCntW.toNat ≤ 8) (hdst : s.regs.tmDstW.toNat ≤ 8)
    (he : frameSplit s = .error e) : exec .tmParse s = .next (s.raise 0x5200 e) := by
  show execTmParse s = _
  simp only [execTmParse, if_neg (not_not.2 (tmWidthMask_eq_zero hcnt hdst)), he, finish_error]
  rfl

/-- The tests behind the split of the frame, in their order. -/
theorem exec_tmParse_of_split (hcnt : s.regs.tmCntW.toNat ≤ 8) (hdst : s.regs.tmDstW.toNat ≤ 8)
    (hf : frameSplit s = .ok f) (hpl : f.pl = payloadLen s) :
    exec .tmParse s =
      finish 0x5200 s
        (if payloadLen s < 3 then .error (.malformed .sechdr)
         else if payloadLen s < tmTimeOffset s then .error (.malformed .opt)
         else
          (cucDec (tmTail s) s.regs.hasP s.regs.cucBasic.toNat s.regs.cucFrac.toNat).bind fun x =>
            if s.params.datCap < payloadLen s - tmTimeOffset s - x.used then .error (.capacity .dat)
            else .ok (s.takeTm f x)) := by
  have hp : s.slice .pkt 6 (payloadLen s) = payload s := rfl
  have htail : (payload s).drop (3 + s.regs.tmCntW.toNat + s.regs.tmDstW.toNat) = tmTail s := rfl
  show execTmParse s = _
  simp only [execTmParse, if_neg (not_not.2 (tmWidthMask_eq_zero hcnt hdst)), hf, hpl, hp, ← List.drop_drop,
    htail]
  cases cucDec (tmTail s) s.regs.hasP s.regs.cucBasic.toNat s.regs.cucFrac.toNat <;> rfl

theorem tmParseError_of_error {code info : Nat} (h : frameError s = some (code, info)) :
    tmParseError s = some (code, info) := by
  rw [tmParseError, h]
  rfl

theorem tmParseError_of_split (h : frameError s = none) :
    tmParseError s =
      if payloadLen s < 3 then some (1, 4)
      else if payloadLen s < tmTimeOffset s then some (1, 5)
      else if (timeError s.regs (tmTail s)).isSome then timeError s.regs (tmTail s)
      else if s.params.datCap < payloadLen s - tmTimeOffset s - timeUsed s.regs (tmTail s) then some (8, 1)
      else none := by
  rw [tmParseError, h]
  rfl

/-- Everything TM.PARSE can do with legal widths: it raises the first error, or it reads the frame and its
time field. -/
theorem exec_tmParse_cases (hcnt : s.regs.tmCntW.toNat ≤ 8) (hdst : s.regs.tmDstW.toNat ≤ 8) :
    (∃ f x, frameSplit s = .ok f
        ∧ cucDec (tmTail s) s.regs.hasP s.regs.cucBasic.toNat s.regs.cucFrac.toNat = .ok x
        ∧ x.used = timeUsed s.regs (tmTail s) ∧ tmParseError s = none ∧ payloadLen s ≤ 65536
        ∧ exec .tmParse s = .next ((s.takeTm f x).complete 0x5200))
      ∨ (∃ e, tmParseError s = some (e.code, e.info.toNat)
          ∧ exec .tmParse s = .next (s.raise 0x5200 e)) := by
  rcases frameSplit_cases s with ⟨f, hf, hnone, -, hpl, -, -, -, -, hmax, -⟩ | ⟨e, he, herr⟩
  case inr => exact .inr ⟨e, tmParseError_of_error herr, exec_tmParse_refuses hcnt hdst he⟩
  rw [tmParseError_of_split hnone, exec_tmParse_of_split hcnt hdst hf hpl]
  by_cases hsechdr : payloadLen s < 3
  · exact .inr ⟨.malformed .sechdr, by rw [if_pos hsechdr]; rfl, by rw [if_pos hsechdr, finish_error]⟩
  rw [if_neg hsechdr, if_neg hsechdr]
  by_cases hopt : payloadLen s < tmTimeOffset s
  · exact .inr ⟨.malformed .opt, by rw [if_pos hopt]; rfl, by rw [if_pos hopt, finish_error]⟩
  rw [if_neg hopt, if_neg hopt]
  rcases cucDec_cases s.regs (tmTail s) with ⟨x, hx, htime, -, -, hused, -⟩ | ⟨e, he, htime⟩
  case inr => exact .inr ⟨e, by rw [htime]; rfl, by rw [he]; rfl⟩
  rw [htime, hx, ← hused, Except.bind]
  by_cases hcap : s.params.datCap < payloadLen s - tmTimeOffset s - x.used
  · exact .inr ⟨.capacity .dat, if_pos hcap, by rw [if_pos hcap, finish_error]⟩
  · exact .inl ⟨f, x, hf, rfl, rfl, if_neg hcap, hmax, by rw [if_neg hcap, finish_ok]⟩

/-- Settles O51, by the width checks and what TM.PARSE can do behind them (`exec_tmParse_cases`). -/
theorem tmParseResult : Obligations.TmParseResult := by
  intro s
  refine ⟨fun hw => ?width, fun code info hcnt hdst herr => ?refuses, fun hcnt hdst hnone => ?completes⟩
  case width =>
    refine ⟨_, _, exec_tmParse_width hw, rfl, ?_⟩
    rw [← tmWidthMask_eq, ← toNat_tmWidthMask]
    exact raisesWithMask_range _ _ s
  case refuses =>
    rcases exec_tmParse_cases hcnt hdst with ⟨f, x, -, -, -, hnone, -⟩ | ⟨e, he, hexec⟩
    · cases hnone.symm.trans herr
    · cases he.symm.trans herr
      exact ⟨_, hexec, raisesPlainly_raise _ e s⟩
  case completes =>
    rcases exec_tmParse_cases hcnt hdst with ⟨f, x, hf, hx, hused, -, hmax, hexec⟩ | ⟨e, he, -⟩
    · obtain ⟨hpusv, hstat, hsvc, hsub, hcntVal, hdstVal⟩ := tmHeaderParsed_takeTm hcnt hdst f x
      rw [← hused]
      exact ⟨_, hexec, frameParsed_of_putFrame hf ((agree_putFrame_takeTm s f x).complete _), hpusv, hstat,
        hsvc, hsub, hcntVal, hdstVal, timeParsed_of_putTime hx ((agree_putTime_takeTm s f x).complete _),
        (dataIs_takeTm f x hmax).complete _, advisoryIs_takeTm s f x, completed_complete _ _,
        (keeps_takeTm s f x).extend (keeps_complete _ _) (by decide) (by decide)⟩
    · cases hnone.symm.trans he

end Sys2Proof.Machine
end

section
/-! PROOFS. TM.PACK, then TM.PARSE (44_pus_tm.md R199). -/

namespace Sys2Proof.Machine

variable {s t u v : State}

/-! ### The fields of a payload (44_pus_tm.md R191) -/

/-- The parts of a payload behind its three fixed octets. -/
theorem drop_tmBytes (s : State) :
    (tmBytes s).drop 3 =
      be s.regs.tmCntW.toNat s.regs.cnt.toNat
        ++ (be s.regs.tmDstW.toNat s.regs.dst.toNat ++ (timeBytes s.regs ++ s.valid .dat)) := by
  rw [tmBytes, List.append_assoc, List.append_assoc, List.append_assoc]
  rfl

theorem cntField_tmBytes (s : State) :
    ((tmBytes s).drop 3).take s.regs.tmCntW.toNat = be s.regs.tmCntW.toNat s.regs.cnt.toNat := by
  rw [drop_tmBytes, List.take_left' (length_be _ _)]

theorem dstField_tmBytes (s : State) :
    ((tmBytes s).drop (3 + s.regs.tmCntW.toNat)).take s.regs.tmDstW.toNat =
      be s.regs.tmDstW.toNat s.regs.dst.toNat := by
  rw [← List.drop_drop, drop_tmBytes, List.drop_left' (length_be _ _), List.take_left' (length_be _ _)]

/-- From the time field on stand the time and the source data. -/
theorem drop_tmTimeOffset_tmBytes (s : State) :
    (tmBytes s).drop (tmTimeOffset s) = timeBytes s.regs ++ s.valid .dat := by
  rw [tmTimeOffset, ← List.drop_drop, ← List.drop_drop, drop_tmBytes, List.drop_left' (length_be _ _),
    List.drop_left' (length_be _ _)]

/-- The fixed octets give back the values that fit them. -/
theorem octets_tmBytes (h : TmFits s.regs) :
    octet (tmBytes s) 0 / 16 = s.regs.pusv.toNat ∧ octet (tmBytes s) 0 % 16 = s.regs.stat.toNat
      ∧ octet (tmBytes s) 1 = s.regs.svc.toNat ∧ octet (tmBytes s) 2 = s.regs.sub.toNat := by
  obtain ⟨hpusv, hstat, hsvc, hsub, -⟩ := h
  have h0 : octet (tmBytes s) 0 = (s.regs.pusv.toNat * 16 + s.regs.stat.toNat) % 256 :=
    BitVec.toNat_ofNat ..
  have h1 : octet (tmBytes s) 1 = s.regs.svc.toNat % 256 := BitVec.toNat_ofNat ..
  have h2 : octet (tmBytes s) 2 = s.regs.sub.toNat % 256 := BitVec.toNat_ofNat ..
  omega

/-- The value of an optional field is read back, and 0 when there is no field. -/
theorem beVal_optField {w : BitVec 32} {x : BitVec 64} (h : OptFits w.toNat x.toNat) :
    beVal (be w.toNat x.toNat) = (if w = 0 then 0 else x).toNat := by
  obtain ⟨-, hx⟩ := h
  split
  · next hzero => rw [hzero]; rfl
  · next hne => exact beVal_be_of_lt (hx (Nat.one_le_iff_ne_zero.2 fun h => hne (BitVec.eq_of_toNat_eq h)))

theorem Agree.append {rs rs' : List Reg} (h : Agree rs s t) (h' : Agree rs' s t) :
    Agree (rs ++ rs') s t :=
  List.forall_mem_append.2 ⟨h, h'⟩

/-! ### The packet that TM.PACK leaves -/

/-- TM.PACK completes only when `pack_raise` returns. -/
theorem packRaise_of_exec_tmPack (h : exec .tmPack s = .next t) (hcode : errorCode t = 0) :
    packRaise s (tmMask s) = none := by
  cases he : packRaise s (tmMask s) with
  | none => rfl
  | some e =>
    cases (exec_tmPack_refuses he).symm.trans h
    rw [errorCode_raise] at hcode
    have := e.code_pos
    omega

theorem holdsPacket_packTm (htm : TmFits s.regs) (htime : TimeFits s.regs.hasP s.regs)
    (hlen : LengthFits s (tmBytes s).length) (w : CmdWord) :
    HoldsPacket s.regs 0 1 (tmBytes s) (s.packTm.complete w) := by
  obtain ⟨hmin, hmax, -, hcap⟩ := hlen
  rw [State.packTm, tmPayload_eq_tmBytes htm htime]
  refine ⟨hmin, hmax, ?valid, rfl, ?within⟩
  case valid =>
    rw [State.valid_complete, State.valid_withTypeFlag]
    exact valid_putPacket (s := s.withVfail (tmMask s)) hmax 0 1
  case within =>
    have hpktLen := toNat_pktLen_putPacket (s := s.withVfail (tmMask s)) hmax 0 1
    exact (hpktLen.trans (Nat.add_assoc _ _ _)).trans_le hcap

/-! ### What TM.PARSE finds in it -/

/-- `u` reads a TM payload with the widths that `s` writes it with, with the same CUC_HASP and, without a
P-field, with the same unit lengths (44_pus_tm.md R199). -/
structure SameTmFraming (s u : State) : Prop where
  cntW : u.regs.tmCntW = s.regs.tmCntW
  dstW : u.regs.tmDstW = s.regs.tmDstW
  time : SameFraming s.regs u.regs

theorem sameTmFraming_of_agree (h : Agree [.tmCntW, .tmDstW, .cucHasp] s u)
    (hwidths : s.regs.cucHasp = 0 → Agree [.cucBasic, .cucFrac] s u) : SameTmFraming s u :=
  ⟨h .tmCntW (by decide), h .tmDstW (by decide), h .cucHasp (by decide), fun hp =>
    ⟨hwidths hp .cucBasic (by decide), hwidths hp .cucFrac (by decide)⟩⟩

theorem SameTmFraming.tmTimeOffset_eq (h : SameTmFraming s u) : tmTimeOffset u = tmTimeOffset s := by
  rw [tmTimeOffset, h.cntW, h.dstW, tmTimeOffset]

theorem tmTail_of_holdsPacket (hs : SameTmFraming s u) (hu : HoldsPacket s.regs 0 1 (tmBytes s) u) :
    tmTail u = timeBytes s.regs ++ s.valid .dat := by
  rw [tmTail, hu.payload_eq, hs.tmTimeOffset_eq, drop_tmTimeOffset_tmBytes]

/-- A packet of TM.PACK parses with the same framing where DAT holds the data it was built from. -/
theorem tmParseError_of_holdsPacket (htime : TimeFits s.regs.hasP s.regs) (hs : SameTmFraming s u)
    (hu : HoldsPacket s.regs 0 1 (tmBytes s) u) (hroom : s.regs.datLen.toNat ≤ u.params.datCap) :
    tmParseError u = none := by
  have htail := tmTail_of_holdsPacket hs hu
  have hoffset : 3 ≤ tmTimeOffset s := by rw [tmTimeOffset]; omega
  rw [tmParseError_of_split hu.frameError_eq_none, hu.payloadLen_eq, length_tmBytes, hs.tmTimeOffset_eq,
    timeError_timeBytes htime hs.time htail, timeUsed_timeBytes htime hs.time htail, if_neg (by omega),
    if_neg (by omega), if_neg (by decide), if_neg (by omega)]

/-! ### What TM.PARSE reads of it -/

theorem tmHeader_of_holdsPacket (htm : TmFits s.regs) (hs : SameTmFraming s u)
    (hu : HoldsPacket s.regs 0 1 (tmBytes s) u) (hparsed : TmHeaderParsed u v) :
    Agree [.pusv, .stat, .svc, .sub] s v
      ∧ v.regs.cnt = (if s.regs.tmCntW = 0 then 0 else s.regs.cnt)
      ∧ v.regs.dst = (if s.regs.tmDstW = 0 then 0 else s.regs.dst) := by
  obtain ⟨hpusv, hstat, hsvc, hsub, hcnt, hdst⟩ := hparsed
  rw [hu.payload_eq] at hpusv hstat hsvc hsub hcnt hdst
  obtain ⟨opusv, ostat, osvc, osub⟩ := octets_tmBytes htm
  obtain ⟨-, -, -, -, hcntFits, hdstFits⟩ := htm
  rw [hs.cntW, cntField_tmBytes, beVal_optField hcntFits] at hcnt
  rw [hs.cntW, hs.dstW, dstField_tmBytes, beVal_optField hdstFits] at hdst
  refine ⟨?_, BitVec.eq_of_toNat_eq hcnt, BitVec.eq_of_toNat_eq hdst⟩
  simp only [Agree, List.forall_mem_cons]
  exact ⟨BitVec.eq_of_toNat_eq (hpusv.trans opusv), BitVec.eq_of_toNat_eq (hstat.trans ostat),
    BitVec.eq_of_toNat_eq (hsvc.trans osvc), BitVec.eq_of_toNat_eq (hsub.trans osub),
    fun _ hr => by cases hr⟩

/-- A state that has read an encoded time holds its format and its value, with and without a P-field, and
the time-code identifier of the P-field or the one it held (41_cuc.md R128). -/
theorem time_of_timeParsed (h : TimeFits s.regs.hasP s.regs) (hs : SameFraming s.regs u.regs)
    {b rest : Bytes} (hb : b = timeBytes s.regs ++ rest) (ht : TimeParsed b u v) :
    Agree [.cucBasic, .cucFrac, .cucSec, .cucFrc] s v
      ∧ (s.regs.cucHasp = 1 → v.regs.cucTcid = s.regs.cucTcid)
      ∧ (s.regs.cucHasp = 0 → v.regs.cucTcid = u.regs.cucTcid) := by
  obtain ⟨hvalue, hpfield, -⟩ := agree_of_timeParsed h hs hb ht
  obtain ⟨-, hbasic, hfrac, -⟩ := framing_timeBytes h hs hb
  obtain ⟨-, -, -, vbasic, vfrac, -, hkept⟩ := ht
  obtain ⟨hhasp, -⟩ := hs
  refine ⟨?_, fun hp => hpfield hp .cucTcid (by decide), fun hp => hkept (hhasp.trans hp)⟩
  simp only [Agree, List.forall_mem_cons] at hvalue ⊢
  exact ⟨BitVec.eq_of_toNat_eq (vbasic.trans hbasic), BitVec.eq_of_toNat_eq (vfrac.trans hfrac), hvalue⟩

theorem data_of_holdsPacket (htime : TimeFits s.regs.hasP s.regs) (hs : SameTmFraming s u)
    (hu : HoldsPacket s.regs 0 1 (tmBytes s) u) :
    (tmTail u).drop (timeUsed u.regs (tmTail u)) = s.valid .dat := by
  have htail := tmTail_of_holdsPacket hs hu
  rw [timeUsed_timeBytes htime hs.time htail, htail, List.drop_left]

/-- Settles O52: TM.PACK that completes leaves the packet in PKT (`holdsPacket_packTm`), whose frame splits
into the header and the payload it was built from, and TM.PARSE reads it (`tmParseResult`): the secondary
header (`tmHeader_of_holdsPacket`), the time (`time_of_timeParsed`), the data (`data_of_holdsPacket`). -/
theorem tmRoundTrip : Obligations.TmRoundTrip := by
  intro s t u hpack hcode hsame hagree hwidths
  have hnone := packRaise_of_exec_tmPack hpack hcode
  obtain ⟨hfits, htm, htime, hlen⟩ := packRaise_tmMask_eq_none_iff.1 hnone
  cases (exec_tmPack_completes hnone).symm.trans hpack
  have hs := sameTmFraming_of_agree hagree hwidths
  have hu := (holdsPacket_packTm htm htime hlen 0x5100).of_samePacket hsame
  have hroom : s.regs.datLen.toNat ≤ u.params.datCap := by
    obtain ⟨hparams, -⟩ := hsame
    obtain ⟨-, -, hdat, -⟩ := hlen
    rw [hparams]
    exact hdat
  have hlegal : u.regs.tmCntW.toNat ≤ 8 ∧ u.regs.tmDstW.toNat ≤ 8 := by
    obtain ⟨-, -, -, -, ⟨hcntW, -⟩, hdstW, -⟩ := htm
    rw [hs.cntW, hs.dstW]
    exact ⟨hcntW, hdstW⟩
  obtain ⟨hcntW, hdstW⟩ := hlegal
  obtain ⟨-, -, hcompletes⟩ := tmParseResult u
  obtain ⟨v, hv, hparsed, hpusv, hstat, hsvc, hsub, hcnt, hdst, htimeParsed, ⟨hdata, hdataLen, -⟩, -,
    hcompleted, -⟩ := hcompletes hcntW hdstW (tmParseError_of_holdsPacket htime hs hu hroom)
  obtain ⟨hsechdr, hcntEq, hdstEq⟩ :=
    tmHeader_of_holdsPacket htm hs hu ⟨hpusv, hstat, hsvc, hsub, hcnt, hdst⟩
  obtain ⟨htimeRegs, hpfield, hbare⟩ :=
    time_of_timeParsed htime hs.time (tmTail_of_holdsPacket hs hu) htimeParsed
  rw [data_of_holdsPacket htime hs hu] at hdata hdataLen
  obtain ⟨htyp, hshf⟩ := hu.types_eq hparsed
  refine ⟨v, hv, errorCode_of_completed hcompleted, ?agree, BitVec.eq_of_toNat_eq htyp,
    BitVec.eq_of_toNat_eq hshf, ?dlen, hcntEq, hdstEq, hpfield, hbare, hdata⟩
  case agree =>
    have hheader := hu.agree hfits hparsed
    have hlength : Agree [.datLen] s v := by
      simp only [Agree, List.forall_mem_cons]
      exact ⟨BitVec.eq_of_toNat_eq (hdataLen.trans (State.length_valid s .dat)), fun _ hr => by cases hr⟩
    exact hheader.append (hsechdr.append (htimeRegs.append hlength))
  case dlen =>
    rw [hu.dlen_eq hparsed, ← tmPayload_eq_tmBytes htm htime]
    rfl

end Sys2Proof.Machine
end

section
/-! PROOFS. The packet VAL operations, and what every VAL operation predicts (45_validators.md R210, R216 to
R218). -/

namespace Sys2Proof.Machine

variable {s : State} {val pack : Instr} {m : Mask} {ks : List Nat} {pl : Nat} {pf : Bool}

/-! ### What a packet VAL operation reports (45_validators.md R216 to R218) -/

/-- What a packet VAL operation commits of its mask: VFAIL and RESULT. -/
def State.reportChecks (s : State) (m : Mask) : State := (s.withVfail m).withResult (requiredPass m)

theorem keeps_reportChecks (s : State) (m : Mask) : Keeps [.vfail, .result] [] s (s.reportChecks m) :=
  (Keeps.refl _ _ s).extend (keeps_withVfail s m) (by decide) (by decide)
    |>.extend (keeps_withResult _ _) (by decide) (by decide)

theorem vfail_reportChecks (s : State) (m : Mask) (w : CmdWord) :
    ((s.reportChecks m).complete w).regs.vfail = m := rfl

theorem result_reportChecks (s : State) (m : Mask) (w : CmdWord) :
    ((s.reportChecks m).complete w).regs.result = if requiredPass m then 1 else 0 := rfl

/-- RESULT is 1 exactly when no required check fails. -/
theorem result_reportChecks_eq_one_iff (hs : ShowsChecks m ks s pl pf) (w : CmdWord) :
    ((s.reportChecks m).complete w).regs.result = 1 ↔ ¬SomeRequiredFails ks s pl pf := by
  rw [result_reportChecks, ← requiredPass_iff hs]
  cases requiredPass m <;> decide

theorem exec_spVal (s : State) : exec .spVal s = .next ((s.reportChecks (spMask s)).complete 0x3000) := rfl

theorem exec_tcVal (s : State) : exec .tcVal s = .next ((s.reportChecks (tcMask s)).complete 0x4000) := rfl

theorem exec_tmVal (s : State) : exec .tmVal s = .next ((s.reportChecks (tmMask s)).complete 0x5000) := rfl

/-- An operation that commits VFAIL and RESULT of a mask reports the checks the mask shows. -/
theorem reports_of_exec (hs : ShowsChecks m ks s pl pf)
    (hval : exec val s = .next ((s.reportChecks m).complete (encode val))) : Reports val ks s pl pf := by
  refine ⟨_, hval, hs, fun hfails => ?failed, (result_reportChecks_eq_one_iff hs _).2,
    completed_complete _ _, (keeps_reportChecks s m).complete _⟩
  case failed =>
    rw [result_reportChecks]
    exact if_neg fun hpass => (requiredPass_iff hs).1 hpass hfails

/-- Settles O38: SP.VAL reports its mask (`reports_of_exec`), which shows the checks of SP.PACK. -/
theorem spValReports : Obligations.SpValReports :=
  fun s => ⟨reports_of_exec (spMask_shows s) (exec_spVal s), rfl⟩

/-- Settles O43: TC.VAL reports its mask (`reports_of_exec`), which shows the checks of TC.PACK. -/
theorem tcValReports : Obligations.TcValReports :=
  fun s => ⟨reports_of_exec (tcMask_shows s) (exec_tcVal s), rfl⟩

/-- Settles O49: TM.VAL reports its mask (`reports_of_exec`), which shows the checks of TM.PACK. -/
theorem tmValReports : Obligations.TmValReports :=
  fun s => ⟨reports_of_exec (tmMask_shows s) (exec_tmVal s), rfl⟩

/-! ### What a VAL operation predicts (45_validators.md R210) -/

/-- From the state `s`, RESULT of `val` tells whether `pack` completes, and VFAIL is the same. -/
def Predicts (val pack : Instr) (s : State) : Prop :=
  ∃ t u, exec val s = .next t ∧ exec pack s = .next u ∧ u.regs.vfail = t.regs.vfail
    ∧ (t.regs.result = 1 ↔ errorCode u = 0)

theorem errorCode_raise_ne_zero (w : CmdWord) (s : State) (e : Err) : errorCode (s.raise w e) ≠ 0 := by
  rw [errorCode_raise]
  exact Nat.pos_iff_ne_zero.1 e.code_pos

/-- RESULT and `pack_raise` read the same mask: a VAL operation predicts the PACK operation that raises what
`pack_raise` tells and completes when it returns (45_validators.md R210, R215). -/
theorem predicts_of_exec {w w' : CmdWord} {u : State} (hs : ShowsChecks m ks s pl pf)
    (hval : exec val s = .next ((s.reportChecks m).complete w))
    (hcompletes : packRaise s m = none → exec pack s = .next (u.complete w') ∧ u.regs.vfail = m)
    (hrefuses : ∀ e, packRaise s m = some e → exec pack s = .next ((s.withVfail m).raise w' e)) :
    Predicts val pack s := by
  have hresult := (result_reportChecks_eq_one_iff hs w).trans (packRaise_eq_none_iff hs).symm
  cases hraise : packRaise s m with
  | none =>
    obtain ⟨hpack, hvfail⟩ := hcompletes hraise
    exact ⟨_, _, hval, hpack, hvfail, iff_of_true (hresult.2 hraise) (errorCode_complete _ _)⟩
  | some e =>
    have hfailed : ((s.reportChecks m).complete w).regs.result ≠ 1 := fun hpassed => by
      cases hraise.symm.trans (hresult.1 hpassed)
    exact ⟨_, _, hval, hrefuses e hraise, rfl, iff_of_false hfailed (errorCode_raise_ne_zero _ _ _)⟩

theorem spMask_eq_zero_of_packRaise (h : packRaise s (spMask s) = none) : spMask s = 0 := by
  by_contra hne
  obtain ⟨e, he⟩ := exists_packRaise_spMask hne
  cases h.symm.trans he

theorem spVal_predicts (s : State) : Predicts .spVal .spPack s :=
  predicts_of_exec (spMask_shows s) (exec_spVal s)
    (fun hnone =>
      have hzero := spMask_eq_zero_of_packRaise hnone
      ⟨exec_spPack_completes hzero, hzero.symm⟩)
    fun _ he => exec_spPack_refuses he

theorem tcVal_predicts (s : State) : Predicts .tcVal .tcPack s :=
  predicts_of_exec (tcMask_shows s) (exec_tcVal s) (fun hnone => ⟨exec_tcPack_completes hnone, rfl⟩)
    fun _ he => exec_tcPack_refuses he

theorem tmVal_predicts (s : State) : Predicts .tmVal .tmPack s :=
  predicts_of_exec (tmMask_shows s) (exec_tmVal s) (fun hnone => ⟨exec_tmPack_completes hnone, rfl⟩)
    fun _ he => exec_tmPack_refuses he

/-- CUC.VAL finds RESULT 1 only of a time that fits (41_cuc.md R130). -/
theorem timeFits_of_result_cucVal {t : State} (h : exec .cucVal s = .next t) (hresult : t.regs.result = 1) :
    TimeFits s.regs.hasP s.regs := by
  refine timeChecks_eq_zero_iff.1 (by_contra fun hne => ?_)
  rw [result_of_exec_cucVal h, if_neg hne] at hresult
  cases hresult

/-- A time field has at most 19 bytes, so the capacity that CUC.VAL does not look at suffices
(log entry 6). -/
theorem cucVal_predicts (hcap : 19 ≤ s.params.datCap) : Predicts .cucVal .cucEnc s := by
  obtain ⟨t, u, ht, hu, hvfail, -, hcompletes, -⟩ := cucValPredictsUpToCapacity s
  refine ⟨t, u, ht, hu, hvfail, fun hresult => hcompletes.2 ⟨hresult, ?_⟩, fun hcode => ?_⟩
  · exact (length_timeBytes_le (timeFits_of_result_cucVal ht hresult)).trans hcap
  · exact (hcompletes.1 hcode).1

/-- Settles O53, pair by pair. -/
theorem validatorsPredict : Obligations.ValidatorsPredict := by
  intro s val pack h
  show Predicts val pack s
  simp only [List.mem_cons, List.not_mem_nil, or_false, Prod.mk.injEq] at h
  rcases h with (⟨rfl, rfl⟩ | ⟨rfl, rfl⟩ | ⟨rfl, rfl⟩) | ⟨⟨rfl, rfl⟩, hcap⟩
  · exact spVal_predicts s
  · exact tcVal_predicts s
  · exact tmVal_predicts s
  · exact cucVal_predicts hcap

end Sys2Proof.Machine
end

section
/-! PROOFS. The three SYS operations (46_system.md R231 to R233). -/

namespace Sys2Proof.Machine

variable {s : State}

/-! ### How the SYS operations end: none of them has an error condition -/

theorem exec_sysNop : exec .sysNop s = .next (s.complete 0x0000) := rfl

theorem exec_sysClrerr :
    exec .sysClrerr s = .next ({ s with regs := { s.regs with errlog := 0 } }.complete 0x0100) := rfl

/-- SYS.RESET leaves no record of completion: CMD and STATUS are among the registers it resets
(46_system.md R233). -/
theorem exec_sysReset : exec .sysReset s = .next { s with regs := Regs.reset } := rfl

/-! ### What they leave -/

/-- Settles O15: completing writes the record and nothing else (`keeps_complete`). -/
theorem sysNopResult : Obligations.SysNopResult := fun s =>
  ⟨_, exec_sysNop, completed_complete _ _, keeps_complete _ s⟩

/-- Settles O16: SYS.CLRERR writes ERRLOG, which the record of completion does not touch. -/
theorem sysClrerrResult : Obligations.SysClrerrResult := fun s =>
  ⟨_, exec_sysClrerr, rfl, completed_complete _ _, (keeps_set s .errlog 0).complete _⟩

/-- Settles O17: the new registers hold the reset column (`Regs.get_reset`), and no byte of a buffer depends
on a register (`State.byteAt_regs`). -/
theorem sysResetResult : Obligations.SysResetResult := fun s =>
  ⟨_, exec_sysReset, Regs.get_reset, State.byteAt_regs s Regs.reset, rfl, rfl, rfl, rfl⟩

end Sys2Proof.Machine
end

section
/-! PROOFS. What the functions that several operations share can raise, and the two ways an operation ends
(60_exceptions.md R240 to R245). -/

namespace Sys2Proof.Machine

variable {i : Instr} {s u : State} {m : Mask} {e : Err} {b : Bytes}

/-! ### What the shared functions raise (60_exceptions.md R241, R242) -/

theorem timeRaise_cases (h : timeRaise m = some e) : e = .timefmt .registers ∨ e = .range m := by
  unfold timeRaise at h
  split at h
  · cases h; exact .inl rfl
  · split at h
    · cases h; exact .inr rfl
    · cases h

theorem packRaise_cases (h : packRaise s m = some e) :
    (m.getLsbD 18 = true ∧ e = .timefmt .registers) ∨ e = .range m ∨ ∃ c, e = .capacity c := by
  unfold packRaise at h
  split at h
  · next hfmt => cases h; exact .inl ⟨hfmt, rfl⟩
  · split at h
    · cases h; exact .inr (.inl rfl)
    · split at h
      · cases h; exact .inr (.inr ⟨_, rfl⟩)
      · cases h

/-- Where the format is none of the checks, `pack_raise` never tells of it (45_validators.md R211, R215). -/
theorem packRaise_cases_of_no_format {ks : List Nat} {pl : Nat} {pf : Bool} (hs : ShowsChecks m ks s pl pf)
    (h18 : 18 ∉ ks) (h : packRaise s m = some e) : e = .range m ∨ ∃ c, e = .capacity c := by
  rcases packRaise_cases h with ⟨hfmt, -⟩ | hother
  · exact absurd ((hs 18).1 hfmt).1 h18
  · exact hother

theorem frameSplit_error_cases (h : frameSplit s = .error e) :
    e = .capacity .pkt ∨ e = .malformed .hdr ∨ e = .malformed .dlen ∨ e = .malformed .pec
      ∨ ∃ need, e = .length need := by
  unfold frameSplit at h
  dsimp only at h
  split at h
  · cases h; exact .inl rfl
  split at h
  · cases h; exact .inr (.inl rfl)
  split at h
  · cases h; exact .inr (.inr (.inl rfl))
  split at h
  · cases h; exact .inr (.inr (.inr (.inr ⟨_, rfl⟩)))
  split at h
  · cases h; exact .inr (.inr (.inr (.inl rfl)))
  · cases h

theorem pfDec_error_cases (h : pfDec b = .error e) : e = .malformed .pfield ∨ e = .timefmt .thirdOctet := by
  unfold pfDec at h
  split at h
  · dsimp only at h
    split at h
    · split at h
      · cases h; exact .inr rfl
      · cases h
    · cases h
  · cases h; exact .inl rfl

theorem tfieldDec_error_cases {off basic frac : Nat} {tcid : Option (BitVec 3)}
    (h : tfieldDec b off basic frac tcid = .error e) : e = .malformed .sec ∨ e = .malformed .frc := by
  rcases tfieldDec_cases b off basic frac tcid with ⟨-, hsec⟩ | ⟨-, -, hfrc⟩ | ⟨-, hok⟩
  · cases hsec.symm.trans h; exact .inl rfl
  · cases hfrc.symm.trans h; exact .inr rfl
  · cases hok.symm.trans h

theorem cucDec_error_cases {hasp : Bool} {basic frac : Nat} (h : cucDec b hasp basic frac = .error e) :
    e = .malformed .pfield ∨ e = .malformed .sec ∨ e = .malformed .frc ∨ e = .timefmt .registers
      ∨ e = .timefmt .thirdOctet ∨ e = .nowidth := by
  unfold cucDec at h
  split at h
  · split at h
    · next hpf =>
      cases h
      rcases pfDec_error_cases hpf with rfl | rfl <;> simp
    · rcases tfieldDec_error_cases h with rfl | rfl <;> simp
  · split at h
    · cases h; simp
    · split at h
      · cases h; simp
      · rcases tfieldDec_error_cases h with rfl | rfl <;> simp

/-! ### How an operation ends (60_exceptions.md R240) -/

/-- The table of 60_exceptions.md R243 lists an error for an operation. -/
def Lists (i : Instr) (e : Err) : Prop := mayRaise i e.code e.info.toNat

/-- What an operation hands to `finish`: a state with the old ERRLOG, which SYS.CLRERR alone clears, or an
error that is listed for it. -/
inductive Decides (i : Instr) (s : State) : Except Err State → Prop where
  | ok {u : State} (hlog : i ≠ .sysClrerr → u.regs.errlog = s.regs.errlog) : Decides i s (.ok u)
  | error {e : Err} (hlisted : Lists i e) : Decides i s (.error e)

/-- The two ends of an operation: it completes, or it raises a listed error, having written VFAIL at most. -/
inductive Ends (i : Instr) (s : State) : State → Prop where
  | completes {u : State} (hlog : i ≠ .sysClrerr → u.regs.errlog = s.regs.errlog) :
      Ends i s (u.complete (encode i))
  | raises {u : State} {e : Err} (hkeeps : Keeps [.vfail] [] s u) (hlisted : Lists i e) :
      Ends i s (u.raise (encode i) e)

theorem Decides.ite {c : Prop} [Decidable c] {a b : Except Err State} (hthen : Decides i s a)
    (helse : Decides i s b) : Decides i s (if c then a else b) := by
  split
  · exact hthen
  · exact helse

/-- An operation raises from the state it has written VFAIL of, and completes from any. -/
theorem Decides.ends_of_keeps {r : Except Err State} (hr : Decides i s r) (hu : Keeps [.vfail] [] s u) :
    NextIs (Ends i s) (finish (encode i) u r) := by
  cases hr with
  | ok hlog => exact ⟨_, rfl, .completes hlog⟩
  | error hlisted => exact ⟨_, rfl, .raises hu hlisted⟩

/-- An operation that raises before it writes anything. -/
theorem Decides.ends {r : Except Err State} (hr : Decides i s r) :
    NextIs (Ends i s) (finish (encode i) s r) :=
  hr.ends_of_keeps (.refl _ _ s)

/-- An operation that writes VFAIL before it raises. -/
theorem Decides.ends_withVfail {r : Except Err State} (hr : Decides i s r) (m : Mask) :
    NextIs (Ends i s) (finish (encode i) (s.withVfail m) r) :=
  hr.ends_of_keeps (keeps_withVfail s m)

/-! ### Which operations the shared errors are listed for (60_exceptions.md R243) -/

/-- An operation that raises for a time mask lists E_TIMEFMT with ERRINFO 0, and E_RANGE with any mask. -/
theorem lists_of_timeRaise (hi : i ∈ [Instr.cucPenc, .cucEnc, .cucFromdt, .cucTofix])
    (h : timeRaise m = some e) : Lists i e := by
  simp only [List.mem_cons, List.not_mem_nil, or_false] at hi
  rcases timeRaise_cases h with rfl | rfl
  case inl => rcases hi with rfl | rfl | rfl | rfl <;> simp [Lists, mayRaise, Err.code, Err.info]
  case inr => rcases hi with rfl | rfl | rfl | rfl <;> exact .inl rfl

/-- The packet operations list E_CAPACITY for both buffers. -/
theorem lists_capacity (hi : i ∈ [Instr.spPack, .tcPack, .tmPack, .spParse, .tcParse, .tmParse])
    (c : BufSel) : Lists i (.capacity c) := by
  simp only [List.mem_cons, List.not_mem_nil, or_false] at hi
  have hinfo : (Err.capacity c).info.toNat ∈ [0, 1] := by cases c <;> decide
  rcases hi with rfl | rfl | rfl | rfl | rfl | rfl <;> simp [Lists, mayRaise, Err.code, hinfo]

/-- The three PARSE operations list whatever stops the split of the frame (42_space_packet.md R156). -/
theorem lists_of_frameSplit (hi : i ∈ [Instr.spParse, .tcParse, .tmParse])
    (h : frameSplit s = .error e) : Lists i e := by
  rcases frameSplit_error_cases h with rfl | rfl | rfl | rfl | ⟨need, rfl⟩
  · exact lists_capacity (List.mem_append_right [.spPack, .tcPack, .tmPack] hi) .pkt
  all_goals
    simp only [List.mem_cons, List.not_mem_nil, or_false] at hi
    rcases hi with rfl | rfl | rfl <;> simp [Lists, mayRaise, Err.code, Err.info, Stage.number]

/-- CUC.DEC and TM.PARSE list whatever stops the decoder of a time field (41_cuc.md R128). -/
theorem lists_of_cucDec {hasp : Bool} {basic frac : Nat} (hi : i ∈ [Instr.cucDec, .tmParse])
    (h : cucDec b hasp basic frac = .error e) : Lists i e := by
  simp only [List.mem_cons, List.not_mem_nil, or_false] at hi
  rcases hi with rfl | rfl <;>
    rcases cucDec_error_cases h with rfl | rfl | rfl | rfl | rfl | rfl <;>
    simp [Lists, mayRaise, Err.code, Err.info, Stage.number]

/-- A width register above 8 shows in bit 14 or 16, or both in both (44_pus_tm.md R197). -/
theorem lists_tmWidthMask (h : tmWidthMask s.regs ≠ 0) : Lists .tmParse (.range (tmWidthMask s.regs)) := by
  have hwide : ¬(s.regs.tmCntW.toNat ≤ 8 ∧ s.regs.tmDstW.toNat ≤ 8) := fun ⟨hcnt, hdst⟩ =>
    h (tmWidthMask_eq_zero hcnt hdst)
  refine .inr (.inl ⟨rfl, ?_⟩)
  show (tmWidthMask s.regs).toNat ∈ _
  rw [toNat_tmWidthMask]
  simp only [List.mem_cons, List.not_mem_nil, or_false]
  split <;> split <;> omega

end Sys2Proof.Machine
end

section
/-! PROOFS. How the operations end, one by one (60_exceptions.md R240, R243). -/

namespace Sys2Proof.Machine

variable (s : State)

/-! ### SYS: SYS.RESET leaves no record, so it is not among them (46_system.md R233) -/

theorem execSysNop_ends : NextIs (Ends .sysNop s) (execSysNop s) :=
  ⟨_, rfl, .completes fun _ => rfl⟩

theorem execSysClrerr_ends : NextIs (Ends .sysClrerr s) (execSysClrerr s) :=
  ⟨_, rfl, .completes (absurd rfl)⟩

/-! ### CRC -/

theorem execCrcInit_ends : NextIs (Ends .crcInit s) (execCrcInit s) :=
  ⟨_, rfl, .completes fun _ => rfl⟩

theorem execCrcByte_ends (byte : Byte) : NextIs (Ends (.crcByte byte) s) (execCrcByte byte s) :=
  ⟨_, rfl, .completes fun _ => rfl⟩

theorem execCrcBuf_ends (b : BufSel) : NextIs (Ends (.crcBuf b) s) (execCrcBuf b s) :=
  Decides.ends (.ite (.error ⟨rfl, by cases b <;> decide⟩) (.ok fun _ => rfl))

theorem execCrcAppend_ends : NextIs (Ends .crcAppend s) (execCrcAppend s) :=
  Decides.ends (.ite (.error ⟨rfl, rfl⟩) (.ok fun _ => rfl))

theorem execCrcCheck_ends : NextIs (Ends .crcCheck s) (execCrcCheck s) :=
  Decides.ends
    (.ite (.error (.inr ⟨rfl, rfl⟩)) (.ite (.error (.inl ⟨rfl, rfl⟩)) (.ok fun _ => rfl)))

/-! ### CUC -/

theorem execCucVal_ends : NextIs (Ends .cucVal s) (execCucVal s) :=
  ⟨_, rfl, .completes fun _ => rfl⟩

theorem execCucPenc_ends : NextIs (Ends .cucPenc s) (execCucPenc s) := by
  refine Decides.ends_withVfail ?_ _
  dsimp only
  cases hraise : timeRaise (timeChecks true s.regs &&& 0x000C0000) with
  | some e => exact .error (lists_of_timeRaise (by simp) hraise)
  | none => exact .ok fun _ => rfl

theorem execCucPdec_ends : NextIs (Ends .cucPdec s) (execCucPdec s) := by
  refine Decides.ends (.ite (.error (.inr (.inr ⟨rfl, rfl⟩))) ?_)
  cases hdec : pfDec (s.valid .dat) with
  | error e =>
    rcases pfDec_error_cases hdec with rfl | rfl
    · exact .error (.inl ⟨rfl, rfl⟩)
    · exact .error (.inr (.inl ⟨rfl, rfl⟩))
  | ok p => exact .ok fun _ => rfl

theorem execCucEnc_ends : NextIs (Ends .cucEnc s) (execCucEnc s) := by
  refine Decides.ends_withVfail ?_ _
  dsimp only
  cases hraise : timeRaise (timeChecks s.regs.hasP s.regs) with
  | some e => exact .error (lists_of_timeRaise (by simp) hraise)
  | none => exact .ite (.error (.inr (.inr ⟨rfl, rfl⟩))) (.ok fun _ => rfl)

theorem Regs.putTime_errlog (r : Regs) (f : TimeField) : (r.putTime f).errlog = r.errlog :=
  putTime_keeps r f .errlog (by decide)

theorem execCucDec_ends : NextIs (Ends .cucDec s) (execCucDec s) := by
  refine Decides.ends (.ite (.error (.inr (.inr (.inr ⟨rfl, rfl⟩)))) ?_)
  cases hdec : cucDec (s.valid .dat) s.regs.hasP s.regs.cucBasic.toNat s.regs.cucFrac.toNat with
  | error e => exact .error (lists_of_cucDec (by simp) hdec)
  | ok f => exact .ok fun _ => Regs.putTime_errlog s.regs f

theorem execCucFromdt_ends : NextIs (Ends .cucFromdt s) (execCucFromdt s) := by
  unfold execCucFromdt
  dsimp only
  cases hraise : timeRaise (fromdtMask s) with
  | some e => exact Decides.ends_withVfail (.error (lists_of_timeRaise (by simp) hraise)) _
  | none =>
    refine .ite (Decides.ends_withVfail (.error ?epoch) _)
      (.ite (Decides.ends_withVfail (.error ?range) _) (Decides.ends_withVfail (.ok ?completed) _))
    case epoch => exact .inr (.inr rfl)
    case range => exact .inl rfl
    case completed => exact fun _ => rfl

theorem execCucTofix_ends : NextIs (Ends .cucTofix s) (execCucTofix s) := by
  refine Decides.ends_withVfail ?_ _
  dsimp only
  cases hraise : timeRaise (timeChecks false s.regs) with
  | some e => exact .error (lists_of_timeRaise (by simp) hraise)
  | none => exact .ok fun _ => rfl

/-! ### Space packets -/

theorem execSpVal_ends : NextIs (Ends .spVal s) (execSpVal s) :=
  ⟨_, rfl, .completes fun _ => rfl⟩

theorem execSpPack_ends : NextIs (Ends .spPack s) (execSpPack s) := by
  refine Decides.ends_withVfail ?_ _
  cases hraise : packRaise s (spMask s) with
  | some e =>
    rcases packRaise_cases_of_no_format (spMask_shows s) (by decide) hraise with rfl | ⟨c, rfl⟩
    · exact .error (.inl rfl)
    · exact .error (lists_capacity (by simp) c)
  | none => exact .ok fun _ => rfl

theorem execSpParse_ends : NextIs (Ends .spParse s) (execSpParse s) := by
  refine Decides.ends ?_
  cases hsplit : frameSplit s with
  | error e => exact .error (lists_of_frameSplit (by simp) hsplit)
  | ok f => exact .ite (.error (lists_capacity (by simp) .dat)) (.ok fun _ => rfl)

/-! ### Telecommand packets -/

theorem execTcVal_ends : NextIs (Ends .tcVal s) (execTcVal s) :=
  ⟨_, rfl, .completes fun _ => rfl⟩

theorem execTcPack_ends : NextIs (Ends .tcPack s) (execTcPack s) := by
  refine Decides.ends_withVfail ?_ _
  cases hraise : packRaise s (tcMask s) with
  | some e =>
    rcases packRaise_cases_of_no_format (tcMask_shows s) (by decide) hraise with rfl | ⟨c, rfl⟩
    · exact .error (.inl rfl)
    · exact .error (lists_capacity (by simp) c)
  | none => exact .ok fun _ => rfl

theorem execTcParse_ends : NextIs (Ends .tcParse s) (execTcParse s) := by
  refine .ite (Decides.ends_withVfail (.error ?width) _) (Decides.ends ?_)
  case width => exact .inr (.inl ⟨rfl, rfl⟩)
  cases hsplit : frameSplit s with
  | error e => exact .error (lists_of_frameSplit (by simp) hsplit)
  | ok f =>
    exact .ite (.error (.inl ⟨rfl, by decide⟩)) (.ite (.error (.inl ⟨rfl, by decide⟩))
      (.ite (.error (lists_capacity (by simp) .dat)) (.ok fun _ => rfl)))

theorem execTcAck_ends (m : BitVec 4) : NextIs (Ends (.tcAck m) s) (execTcAck m s) :=
  ⟨_, rfl, .completes fun _ => rfl⟩

theorem execTcReqid_ends : NextIs (Ends .tcReqid s) (execTcReqid s) := by
  refine Decides.ends_withVfail ?_ _
  exact .ite (.error rfl) (.ok fun _ => rfl)

/-! ### Telemetry packets -/

theorem execTmVal_ends : NextIs (Ends .tmVal s) (execTmVal s) :=
  ⟨_, rfl, .completes fun _ => rfl⟩

theorem execTmPack_ends : NextIs (Ends .tmPack s) (execTmPack s) := by
  refine Decides.ends_withVfail ?_ _
  cases hraise : packRaise s (tmMask s) with
  | some e =>
    rcases packRaise_cases hraise with ⟨-, rfl⟩ | rfl | ⟨c, rfl⟩
    · exact .error (.inr (.inl ⟨rfl, rfl⟩))
    · exact .error (.inl rfl)
    · exact .error (lists_capacity (by simp) c)
  | none => exact .ok fun _ => rfl

theorem execTmParse_ends : NextIs (Ends .tmParse s) (execTmParse s) := by
  by_cases hwidth : tmWidthMask s.regs = 0
  case neg =>
    rw [execTmParse, if_pos hwidth]
    exact Decides.ends_withVfail (.error (lists_tmWidthMask hwidth)) _
  rw [execTmParse, if_neg (not_not.2 hwidth)]
  refine Decides.ends ?_
  cases hsplit : frameSplit s with
  | error e => exact .error (lists_of_frameSplit (by simp) hsplit)
  | ok f =>
    refine .ite (.error (.inl ⟨rfl, by decide⟩)) (.ite (.error (.inl ⟨rfl, by decide⟩)) ?_)
    cases hdec : cucDec ((s.slice .pkt 6 f.pl).drop (3 + s.regs.tmCntW.toNat + s.regs.tmDstW.toNat))
        s.regs.hasP s.regs.cucBasic.toNat s.regs.cucFrac.toNat with
    | error e => exact .error (lists_of_cucDec (by simp) hdec)
    | ok x =>
      exact .ite (.error (lists_capacity (by simp) .dat))
        (.ok fun _ => Regs.putTime_errlog (s.regs.putFrame f) x)

/-! ### Every operation -/

/-- Every operation but SYS.RESET completes with its record or raises an error listed for it
(60_exceptions.md R240, R243). -/
theorem exec_ends {i : Instr} (hi : i ≠ .sysReset) : NextIs (Ends i s) (exec i s) := by
  cases i with
  | sysReset => exact absurd rfl hi
  | sysNop => exact execSysNop_ends s
  | sysClrerr => exact execSysClrerr_ends s
  | crcInit => exact execCrcInit_ends s
  | crcByte byte => exact execCrcByte_ends s byte
  | crcBuf b => exact execCrcBuf_ends s b
  | crcAppend => exact execCrcAppend_ends s
  | crcCheck => exact execCrcCheck_ends s
  | cucVal => exact execCucVal_ends s
  | cucPenc => exact execCucPenc_ends s
  | cucPdec => exact execCucPdec_ends s
  | cucEnc => exact execCucEnc_ends s
  | cucDec => exact execCucDec_ends s
  | cucFromdt => exact execCucFromdt_ends s
  | cucTofix => exact execCucTofix_ends s
  | spVal => exact execSpVal_ends s
  | spPack => exact execSpPack_ends s
  | spParse => exact execSpParse_ends s
  | tcVal => exact execTcVal_ends s
  | tcPack => exact execTcPack_ends s
  | tcParse => exact execTcParse_ends s
  | tcAck m => exact execTcAck_ends s m
  | tcReqid => exact execTcReqid_ends s
  | tmVal => exact execTmVal_ends s
  | tmPack => exact execTmPack_ends s
  | tmParse => exact execTmParse_ends s

end Sys2Proof.Machine
end

section
/-! PROOFS. Errors: how a command can end, and which operation can raise which error (60_exceptions.md R240,
R243 to R245). -/

namespace Sys2Proof.Machine

variable {s u : State}

/-! ### Which operation can raise which error (60_exceptions.md R243) -/

/-- Settles O55, by the two ends of an operation (`exec_ends`): only a raise leaves an error code. -/
theorem onlyListedErrors : Obligations.OnlyListedErrors := by
  intro i s t hexec hcode
  by_cases hi : i = .sysReset
  · subst hi
    cases exec_sysReset.symm.trans hexec
    exact absurd rfl hcode
  · obtain ⟨t', ht', hends⟩ := exec_ends s hi
    cases ht'.symm.trans hexec
    cases hends with
    | completes => exact absurd (errorCode_complete _ _) hcode
    | raises _ hlisted =>
      rw [errorCode_raise]
      exact hlisted

/-! ### How a command ends (60_exceptions.md R240, R244, R245) -/

/-- A raise after VFAIL was written or not: the error record and VFAIL, and nothing else (60_exceptions.md
R244). -/
theorem raised_of_keeps_vfail (h : Keeps [.vfail] [] s u) (w : CmdWord) (e : Err) :
    Raised w e.code e.info.toNat s (u.raise w e)
      ∧ Keeps [.cmd, .status, .errlog, .errinfo, .vfail] [] s (u.raise w e) := by
  obtain ⟨hcmd, hstatus, herrlog, herrinfo⟩ := raised_raise w e u
  have hlog : u.regs.errlog = s.regs.errlog := h.1 .errlog (by decide)
  refine ⟨⟨hcmd, hstatus, hlog ▸ herrlog, herrinfo⟩, ?_⟩
  exact ((Keeps.refl _ _ s).extend h (by decide) (by decide)).extend (keeps_raise w e u) (by decide)
    (by decide)

theorem eq_encode_of_decode {w : CmdWord} {i : Instr} (h : decode w = .ok i) : w = encode i :=
  ((encode_eq_iff i w).2 (fields_of_decode h)).symm

theorem decode_reset : decode 0x0200 = .ok .sysReset := rfl

/-- The write of a command word as the host's next transaction hands the word to `command`. -/
theorem step_withFetchWord (s : State) (nbits : Nat) (w : CmdWord) :
    step (s.withFetchWord nbits w.toNat) = command w s :=
  step_command rfl

/-- Settles O54: a legal word runs its operation, which is SYS.RESET or ends in one of two ways
(`exec_ends`), and an illegal word raises E_ILLEGAL. -/
theorem everyCommandCompletesOrRaises : Obligations.EveryCommandCompletesOrRaises := by
  intro s w
  rw [step_withFetchWord]
  rcases command_cases w s with ⟨i, hdecode, hcommand⟩ | ⟨d, hdecode, hcommand⟩
  · rw [hcommand]
    obtain rfl := eq_encode_of_decode hdecode
    by_cases hi : i = .sysReset
    · subst hi
      exact ⟨_, exec_sysReset, .inl ⟨rfl, rfl, rfl⟩⟩
    · have hreset : encode i ≠ 0x0200 := fun hw => by
        rw [hw, decode_reset] at hdecode
        exact hi (Except.ok.inj hdecode).symm
      obtain ⟨t, ht, hends⟩ := exec_ends s hi
      refine ⟨t, ht, .inr ?_⟩
      cases hends with
      | completes hlog =>
        refine .inl ⟨hreset, completed_complete _ _, fun hclrerr => hlog ?_⟩
        rintro rfl
        exact hclrerr rfl
      | raises hkeeps _ =>
        exact .inr ⟨hreset, _, _, Err.code_pos _, Err.code_le _, raised_of_keeps_vfail hkeeps _ _⟩
  · refine ⟨_, hcommand, .inr (.inr ⟨fun hw => ?_, _, _, Err.code_pos _, Err.code_le _,
      raised_of_keeps_vfail (.refl _ _ s) _ _⟩)⟩
    rw [hw, decode_reset] at hdecode
    cases hdecode

end Sys2Proof.Machine
end

section
/-! PROOFS. What a hardware reset does to the buffers, and what it keeps (70_reset_and_hazards.md R271,
R272). -/

namespace Sys2Proof.Machine

/-- A byte that nothing has written reads as the free value of the last hardware reset (log entry 1). -/
theorem State.byteAt_unwritten {s : State} {b : BufSel} {i : Nat} (h : (s.buffer b).written i = none) :
    s.byteAt b i = Config.freeByte s.resets b i := by
  rw [State.byteAt, h, Option.getD_none]

@[simp] theorem hardReset_buffer (s : State) (b : BufSel) : (hardReset s).buffer b = [] := by
  cases b <;> rfl

@[simp] theorem hardReset_resets (s : State) : (hardReset s).resets = s.resets + 1 := rfl

@[simp] theorem hardReset_params (s : State) : (hardReset s).params = s.params := rfl

@[simp] theorem hardReset_pending (s : State) : (hardReset s).pending = s.pending := rfl

@[simp] theorem hardReset_reply (s : State) : (hardReset s).reply = s.reply := rfl

/-- The reset forgets every byte written before it, so each reads as the new reset's free value. -/
theorem byteAt_hardReset (s : State) (b : BufSel) (i : Nat) :
    (hardReset s).byteAt b i = Config.freeByte (s.resets + 1) b i :=
  State.byteAt_unwritten (by rw [hardReset_buffer, Memory.written_nil])

theorem step_hardReset {s : State} {rest : List HostEvent} (hp : s.pending = .hardReset :: rest) :
    step s = .next (hardReset { s with pending := rest }) :=
  step_event hp

/-- Settles O2: the step is `hardReset` on the state with the transaction taken off, the bytes are those of
`byteAt_hardReset`, and the rest is the frame of `hardReset`. -/
theorem hardwareResetFreesBuffers : Obligations.HardwareResetFreesBuffers := by
  intro s rest hp
  exact ⟨_, step_hardReset hp, hardReset_resets _, byteAt_hardReset _, hardReset_params _,
    hardReset_pending _, hardReset_reply _⟩

end Sys2Proof.Machine
end
